-- ==== Sys2Proof/Word.lean ====
section
/-! DEFINITION. The widths the spec computes with (R15, R16): bytes, 16-bit ticks and fields, 32-bit port words. -/

namespace Sys2Proof

/-- A byte: a UART byte, a raw channel byte, a byte of a configuration record. -/
abbrev Byte := BitVec 8

/-- An unsigned 16-bit value: a register or operand that holds a tick count (of `TICK_BITS` bits, R10, R44, R142), or a
16-bit configuration field. -/
abbrev U16 := BitVec 16

/-- One word of the input, response or notification port (R140). -/
abbrev Word := BitVec 32

end Sys2Proof
end

