-- ==== Sys2Proof/Config.lean ====
section
/-! DEFINITION. What an implementation fixes: the parameters of R10, which the model takes as a record (held in
`State.params`; log entries 1, 2 and 9). -/

namespace Sys2Proof

/-- `SOURCE_SELECT`, the aggregator's source rule (R10, D20). -/
inductive SourceSelect where
  /-- `FIXED`: PPM, then PCM, then SRXL (R356). -/
  | fixed
  /-- `LAST_RECEIVING`: the decoder that last began to receive (R357). -/
  | lastReceiving
deriving DecidableEq, Repr

/-- The parameters of R10, in its order. A field's default is the value R10 shows. `ticksPerUs`, `maxOutputChannels`
and `configVersion` are OPEN there: the spec gives them no value but the one its test vectors use (log entry 1). -/
structure Params where
  /-- Width of a tick count, at most the 16 bits a port word and a register give it (R142, R44; log entry 9). -/
  tickBits          : Nat := 16
  ticksPerUs        : Nat := 2
  ppmMinChannels    : Nat := 4
  /-- Entries of a PPM bank (R44). -/
  ppmMaxChannels    : Nat := 9
  ppmTimeoutTicks   : Nat := 100
  pcmTimeoutTicks   : Nat := 100
  srxlTimeoutTicks  : Nat := 100
  pcmSyncMinUs      : Nat := 750
  pcmCenterUs       : Vector Nat 7 := #v[880, 1020, 1160, 1300, 1440, 1580, 1720]
  pcmGuardUs        : Nat := 70
  /-- Checked bytes of a PCM frame (R263, R268). -/
  pcmDataBytes      : Nat := 8
  /-- Entries of a PCM bank (R54). -/
  pcmBankSize       : Nat := 10
  srxlSyncTimeoutUs : Nat := 5000
  /-- Entries of an SRXL bank (R64). -/
  srxlBankSize      : Nat := 35
  maxInputChannels  : Nat := 16
  maxOutputChannels : Nat := 8
  configVersion     : Nat := 1
  minSyncLo         : Nat := 2000
  minSyncHi         : Nat := 20000
  centerLo          : Nat := 1000
  centerHi          : Nat := 2000
  rangeLo           : Nat := 100
  rangeHi           : Nat := 1000
  sourceSelect      : SourceSelect := .fixed
  /-- Timing only: no rule reads it (R10, R585). -/
  periodicTickUs    : Nat := 1000
deriving DecidableEq, Repr

/-- The parameter values R10 shows: the ones `State.reset` takes (log entry 1). -/
def Params.default : Params := {}

/-- `CONFIG_SIZE = 14 + MAX_OUTPUT_CHANNELS`: bytes of a configuration record (R10, R104). -/
def Params.configSize (p : Params) : Nat := 14 + p.maxOutputChannels

/-- `W = ceil(CONFIG_SIZE / 4)`: payload words of a record (R105). -/
def Params.payloadWords (p : Params) : Nat := (p.configSize + 3) / 4

/-- The parameter sets the spec admits (`93_implementation_defined.md`, items 6, 9 and 10, and the widths of the
registers that hold a parameter; log entry 2). -/
abbrev Params.Admitted (p : Params) : Prop :=
  -- R10: an integer of at least 1
  1 ≤ p.ticksPerUs ∧
  -- R142, R44: a tick count fits the operand `t` and the registers that hold one
  p.tickBits ≤ 16 ∧
  -- R11: neither threshold overflows the tick count
  p.minSyncHi * p.ticksPerUs < 2 ^ p.tickBits ∧ p.srxlSyncTimeoutUs * p.ticksPerUs < 2 ^ p.tickBits ∧
  -- R44, R54: the 4-bit counters go up to the sizes
  p.ppmMaxChannels < 2 ^ 4 ∧ p.pcmDataBytes < 2 ^ 4 ∧
  -- R101: no rule forms an index outside a bank (R266, R273 and the 10 channels of R270, the 35-byte frame of R305)
  p.pcmDataBytes ≤ p.pcmBankSize ∧ 10 ≤ p.pcmBankSize ∧ 35 ≤ p.srxlBankSize ∧
  -- R44, R54, R64: the counters are 8 bits wide and go up to the limit
  p.ppmTimeoutTicks < 2 ^ 8 ∧ p.pcmTimeoutTicks < 2 ^ 8 ∧ p.srxlTimeoutTicks < 2 ^ 8 ∧
  -- R10, R404: 1 to 16 outputs, and the identity mapping is valid
  1 ≤ p.maxOutputChannels ∧ p.maxOutputChannels ≤ 16 ∧ p.maxOutputChannels ≤ p.maxInputChannels ∧
  -- R35: a 16-bit schema tag
  p.configVersion < 2 ^ 16 ∧
  -- R404: the defaults are valid, and the range is never zero
  p.minSyncLo ≤ 3500 ∧ 3500 ≤ p.minSyncHi ∧ p.centerLo ≤ 1500 ∧ 1500 ≤ p.centerHi ∧
  0 < p.rangeLo ∧ p.rangeLo ≤ 500 ∧ 500 ≤ p.rangeHi ∧
  -- R250: the boundaries increase
  p.pcmCenterUs.toList.Pairwise (· < ·)

end Sys2Proof
end

