-- ==== Sys2Proof/Syntax.lean ====
section
/-! DEFINITION. The instructions: one constructor for each row of the opcode table (R144), with the operands of R143. -/

namespace Sys2Proof

/-- One instruction of the input port (R140). An operand carries the bits the encoding gives it. A payload is the bytes of
the payload words, pad bytes included, least significant byte of the first word first (R105). A reserved opcode carries
the 27 bits below its opcode, which R460 does not read (log entry 11). -/
inductive Instr where
  /-- EDGE (R200): `r` is 1 for a rising edge, `t` the capture time in ticks. -/
  | edge (r : Bool) (t : U16)
  /-- UART_BYTE (R300): the byte `d` and its arrival time `t`. -/
  | uartByte (d : Byte) (t : U16)
  /-- ALARM_PPM (R201). -/
  | alarmPpm
  /-- ALARM_SRXL (R301). -/
  | alarmSrxl
  /-- TICK (R450). -/
  | tick
  /-- UPDATE (R350). -/
  | update
  /-- GET_SOURCE (R351). -/
  | getSource
  /-- GET_COUNT (R352). -/
  | getCount
  /-- GET_INPUT (R353): a 0-based input channel. -/
  | getInput (i : Byte)
  /-- GET_OUTPUT (R354): a 0-based output channel. -/
  | getOutput (i : Byte)
  /-- GET_DECODER_STATUS (R371): `k` is 1 PPM, 2 PCM, 3 SRXL. -/
  | getDecoderStatus (k : BitVec 2)
  /-- CLEAR_NEW_DATA (R372). -/
  | clearNewData (k : BitVec 2)
  /-- CFG_READ (R410). -/
  | cfgRead
  /-- CFG_WRITE (R411). -/
  | cfgWrite (payload : List Byte)
  /-- CFG_DEFAULT (R412). -/
  | cfgDefault
  /-- CFG_SAVE (R413). -/
  | cfgSave
  /-- CFG_LOAD (R414): `none` is `p = 0`, `some` is `p = 1` with the stored record. -/
  | cfgLoad (payload : Option (List Byte))
  /-- RESET (R455). -/
  | reset
  /-- The reserved opcodes (R145, R460). -/
  | reservedOp00 (low : BitVec 27)
  | reservedOp06 (low : BitVec 27)
  | reservedOp07 (low : BitVec 27)
  | reservedOp0F (low : BitVec 27)
  | reservedOp15 (low : BitVec 27)
  | reservedOp16 (low : BitVec 27)
  | reservedOp17 (low : BitVec 27)
  | reservedOp18 (low : BitVec 27)
  | reservedOp19 (low : BitVec 27)
  | reservedOp1A (low : BitVec 27)
  | reservedOp1B (low : BitVec 27)
  | reservedOp1C (low : BitVec 27)
  | reservedOp1D (low : BitVec 27)
  | reservedOp1E (low : BitVec 27)
deriving DecidableEq, Repr

/-- The payload bytes an instruction carries: none for a one-word instruction. -/
def Instr.payload : Instr → List Byte
  | .cfgWrite bs => bs
  | .cfgLoad (some bs) => bs
  | _ => []

/-- The instruction is one of the two forms that payload words follow (R150). -/
def Instr.takesPayload : Instr → Bool
  | .cfgWrite _ => true
  | .cfgLoad (some _) => true
  | _ => false

end Sys2Proof
end

