-- ==== Sys2Proof/WellFormed.lean ====
section
/-! DEFINITION. Which instructions a block with the parameters `p` can be sent: the payload of CFG_WRITE, and of CFG_LOAD
with `p = 1`, is exactly `W` words (R105, R150). Every other operand is bounded by its type. -/

namespace Sys2Proof

/-- The payload, where there is one, fills exactly `W` words of 4 bytes (R105, R150). -/
abbrev Instr.WellFormed (p : Params) (i : Instr) : Prop :=
  i.payload.length = if i.takesPayload then 4 * p.payloadWords else 0

end Sys2Proof
end

