-- ==== Sys2Proof/Decode.lean ====
section
/-! DEFINITION. The interface encoding (`30_encoding.md`): operand fields, formats, the opcode map, the decoder of one
instruction from its words, and the encoder. -/

namespace Sys2Proof

/-! ### Payload words and record bytes (R105) -/

/-- The four bytes of a port word, least significant first (R105). -/
def bytesOfWord (w : Word) : List Byte :=
  [w.extractLsb' 0 8, w.extractLsb' 8 8, w.extractLsb' 16 8, w.extractLsb' 24 8]

/-- The port word that holds four bytes, the first in bits 7:0 (R105). -/
def wordOfBytes (b0 b1 b2 b3 : Byte) : Word := b3 ++ b2 ++ b1 ++ b0

/-- The bytes of a sequence of payload words (R105). -/
def bytesOfWords : List Word → List Byte
  | [] => []
  | w :: ws => bytesOfWord w ++ bytesOfWords ws

/-- The payload words that carry a sequence of bytes. Pad bytes are 0 on output (R105). -/
def wordsOfBytes : List Byte → List Word
  | [] => []
  | [b0] => [wordOfBytes b0 0 0 0]
  | [b0, b1] => [wordOfBytes b0 b1 0 0]
  | [b0, b1, b2] => [wordOfBytes b0 b1 b2 0]
  | b0 :: b1 :: b2 :: b3 :: bs => wordOfBytes b0 b1 b2 b3 :: wordsOfBytes bs

/-! ### Fields of an opcode word (R141, R143) -/

/-- The opcode, bits 31:27 (R141). -/
def fieldOp (w : Word) : BitVec 5 := w.extractLsb' 27 5
/-- The capture time `t`, bits 15:0. -/
def fieldT (w : Word) : U16 := w.extractLsb' 0 16
/-- The direction `r`, bit 16: true is a rising edge. -/
def fieldR (w : Word) : Bool := w.getLsbD 16
/-- The received byte `d`, bits 23:16. -/
def fieldD (w : Word) : Byte := w.extractLsb' 16 8
/-- The channel index `i`, bits 7:0. -/
def fieldI (w : Word) : Byte := w.extractLsb' 0 8
/-- The decoder number `k`, bits 1:0. -/
def fieldK (w : Word) : BitVec 2 := w.extractLsb' 0 2
/-- The record-follows bit `p`, bit 0. -/
def fieldP (w : Word) : Bool := w.getLsbD 0
/-- The 27 bits below a reserved opcode. -/
def fieldLow (w : Word) : BitVec 27 := w.extractLsb' 0 27

/-! ### The opcode map (R144) -/

/-- One row of the opcode table: the words `w` with `w &&& mask = pattern` spell the mnemonic (R144). -/
structure OpRow where
  mnemonic : String
  pattern  : Word
  mask     : Word
deriving DecidableEq, Repr

/-- The word spells the row's mnemonic (R144). -/
abbrev OpRow.Matches (row : OpRow) (w : Word) : Prop := w &&& row.mask = row.pattern

/-- The opcode table (R144, R145), row for row. -/
def opcodeTable : List OpRow := [
  ⟨"EDGE", 0x08000000, 0xFFFE0000⟩,
  ⟨"UART_BYTE", 0x10000000, 0xFF000000⟩,
  ⟨"ALARM_PPM", 0x18000000, 0xFFFFFFFF⟩,
  ⟨"ALARM_SRXL", 0x20000000, 0xFFFFFFFF⟩,
  ⟨"TICK", 0x28000000, 0xFFFFFFFF⟩,
  ⟨"UPDATE", 0x40000000, 0xFFFFFFFF⟩,
  ⟨"GET_SOURCE", 0x48000000, 0xFFFFFFFF⟩,
  ⟨"GET_COUNT", 0x50000000, 0xFFFFFFFF⟩,
  ⟨"GET_INPUT", 0x58000000, 0xFFFFFF00⟩,
  ⟨"GET_OUTPUT", 0x60000000, 0xFFFFFF00⟩,
  ⟨"GET_DECODER_STATUS", 0x68000000, 0xFFFFFFFC⟩,
  ⟨"CLEAR_NEW_DATA", 0x70000000, 0xFFFFFFFC⟩,
  ⟨"CFG_READ", 0x80000000, 0xFFFFFFFF⟩,
  ⟨"CFG_WRITE", 0x88000000, 0xFFFFFFFF⟩,
  ⟨"CFG_DEFAULT", 0x90000000, 0xFFFFFFFF⟩,
  ⟨"CFG_SAVE", 0x98000000, 0xFFFFFFFF⟩,
  ⟨"CFG_LOAD", 0xA0000000, 0xFFFFFFFE⟩,
  ⟨"RESET", 0xF8000000, 0xFFFFFFFF⟩,
  ⟨"RESERVED_OP_0x00", 0x00000000, 0xF8000000⟩,
  ⟨"RESERVED_OP_0x06", 0x30000000, 0xF8000000⟩,
  ⟨"RESERVED_OP_0x07", 0x38000000, 0xF8000000⟩,
  ⟨"RESERVED_OP_0x0F", 0x78000000, 0xF8000000⟩,
  ⟨"RESERVED_OP_0x15", 0xA8000000, 0xF8000000⟩,
  ⟨"RESERVED_OP_0x16", 0xB0000000, 0xF8000000⟩,
  ⟨"RESERVED_OP_0x17", 0xB8000000, 0xF8000000⟩,
  ⟨"RESERVED_OP_0x18", 0xC0000000, 0xF8000000⟩,
  ⟨"RESERVED_OP_0x19", 0xC8000000, 0xF8000000⟩,
  ⟨"RESERVED_OP_0x1A", 0xD0000000, 0xF8000000⟩,
  ⟨"RESERVED_OP_0x1B", 0xD8000000, 0xF8000000⟩,
  ⟨"RESERVED_OP_0x1C", 0xE0000000, 0xF8000000⟩,
  ⟨"RESERVED_OP_0x1D", 0xE8000000, 0xF8000000⟩,
  ⟨"RESERVED_OP_0x1E", 0xF0000000, 0xF8000000⟩]

/-- The mnemonic of an instruction, as the opcode table spells it. -/
def Instr.mnemonic : Instr → String
  | .edge _ _ => "EDGE"
  | .uartByte _ _ => "UART_BYTE"
  | .alarmPpm => "ALARM_PPM"
  | .alarmSrxl => "ALARM_SRXL"
  | .tick => "TICK"
  | .update => "UPDATE"
  | .getSource => "GET_SOURCE"
  | .getCount => "GET_COUNT"
  | .getInput _ => "GET_INPUT"
  | .getOutput _ => "GET_OUTPUT"
  | .getDecoderStatus _ => "GET_DECODER_STATUS"
  | .clearNewData _ => "CLEAR_NEW_DATA"
  | .cfgRead => "CFG_READ"
  | .cfgWrite _ => "CFG_WRITE"
  | .cfgDefault => "CFG_DEFAULT"
  | .cfgSave => "CFG_SAVE"
  | .cfgLoad _ => "CFG_LOAD"
  | .reset => "RESET"
  | .reservedOp00 _ => "RESERVED_OP_0x00"
  | .reservedOp06 _ => "RESERVED_OP_0x06"
  | .reservedOp07 _ => "RESERVED_OP_0x07"
  | .reservedOp0F _ => "RESERVED_OP_0x0F"
  | .reservedOp15 _ => "RESERVED_OP_0x15"
  | .reservedOp16 _ => "RESERVED_OP_0x16"
  | .reservedOp17 _ => "RESERVED_OP_0x17"
  | .reservedOp18 _ => "RESERVED_OP_0x18"
  | .reservedOp19 _ => "RESERVED_OP_0x19"
  | .reservedOp1A _ => "RESERVED_OP_0x1A"
  | .reservedOp1B _ => "RESERVED_OP_0x1B"
  | .reservedOp1C _ => "RESERVED_OP_0x1C"
  | .reservedOp1D _ => "RESERVED_OP_0x1D"
  | .reservedOp1E _ => "RESERVED_OP_0x1E"

/-! ### Decoding -/

/-- Why a sequence of words is not an instruction. -/
inductive DecodeError where
  /-- There is no word. -/
  | noWord
  /-- A bit that the format of a defined opcode marks 0 is 1: the word is illegal (R145). -/
  | reservedBitSet
  /-- No opcode of the map. It never occurs: the map covers all 32 values of the field (`decodeOp_ne_noOpcode`). -/
  | noOpcode
  /-- Fewer words than the length the first word gives (R150). -/
  | truncated
deriving DecidableEq, Repr

/-- Format N: no operand, bits 26:0 are 0 (R142, R145). -/
def formatN (w : Word) (i : Instr) : Except DecodeError Instr :=
  if w.extractLsb' 0 27 = 0 then .ok i else .error .reservedBitSet
/-- Format T: bits 26:17 are 0. -/
def formatT (w : Word) (i : Instr) : Except DecodeError Instr :=
  if w.extractLsb' 17 10 = 0 then .ok i else .error .reservedBitSet
/-- Format B: bits 26:24 are 0. -/
def formatB (w : Word) (i : Instr) : Except DecodeError Instr :=
  if w.extractLsb' 24 3 = 0 then .ok i else .error .reservedBitSet
/-- Format I: bits 26:8 are 0. -/
def formatI (w : Word) (i : Instr) : Except DecodeError Instr :=
  if w.extractLsb' 8 19 = 0 then .ok i else .error .reservedBitSet
/-- Format K: bits 26:2 are 0. -/
def formatK (w : Word) (i : Instr) : Except DecodeError Instr :=
  if w.extractLsb' 2 25 = 0 then .ok i else .error .reservedBitSet
/-- Format P: bits 26:1 are 0, bit 1 included. -/
def formatP (w : Word) (i : Instr) : Except DecodeError Instr :=
  if w.extractLsb' 1 26 = 0 then .ok i else .error .reservedBitSet

/-- The instruction an opcode word and the bytes of its payload spell (R141 to R145, R449). Format W has the bits of
format N. Every opcode is a row of the table, reserved ones included, so the only refusal that occurs is a reserved bit. -/
def decodeOp (w : Word) (payload : List Byte) : Except DecodeError Instr :=
  match fieldOp w with
  | 0x00#5 => .ok (.reservedOp00 (fieldLow w))
  | 0x01#5 => formatT w (.edge (fieldR w) (fieldT w))
  | 0x02#5 => formatB w (.uartByte (fieldD w) (fieldT w))
  | 0x03#5 => formatN w .alarmPpm
  | 0x04#5 => formatN w .alarmSrxl
  | 0x05#5 => formatN w .tick
  | 0x06#5 => .ok (.reservedOp06 (fieldLow w))
  | 0x07#5 => .ok (.reservedOp07 (fieldLow w))
  | 0x08#5 => formatN w .update
  | 0x09#5 => formatN w .getSource
  | 0x0A#5 => formatN w .getCount
  | 0x0B#5 => formatI w (.getInput (fieldI w))
  | 0x0C#5 => formatI w (.getOutput (fieldI w))
  | 0x0D#5 => formatK w (.getDecoderStatus (fieldK w))
  | 0x0E#5 => formatK w (.clearNewData (fieldK w))
  | 0x0F#5 => .ok (.reservedOp0F (fieldLow w))
  | 0x10#5 => formatN w .cfgRead
  | 0x11#5 => formatN w (.cfgWrite payload)
  | 0x12#5 => formatN w .cfgDefault
  | 0x13#5 => formatN w .cfgSave
  | 0x14#5 => formatP w (.cfgLoad (if fieldP w then some payload else none))
  | 0x15#5 => .ok (.reservedOp15 (fieldLow w))
  | 0x16#5 => .ok (.reservedOp16 (fieldLow w))
  | 0x17#5 => .ok (.reservedOp17 (fieldLow w))
  | 0x18#5 => .ok (.reservedOp18 (fieldLow w))
  | 0x19#5 => .ok (.reservedOp19 (fieldLow w))
  | 0x1A#5 => .ok (.reservedOp1A (fieldLow w))
  | 0x1B#5 => .ok (.reservedOp1B (fieldLow w))
  | 0x1C#5 => .ok (.reservedOp1C (fieldLow w))
  | 0x1D#5 => .ok (.reservedOp1D (fieldLow w))
  | 0x1E#5 => .ok (.reservedOp1E (fieldLow w))
  | 0x1F#5 => formatN w .reset
  | _ => .error .noOpcode

/-- How many payload words follow a first word: `W` after CFG_WRITE and after CFG_LOAD with `p = 1`, none after any
other word, legal or illegal (R150). -/
def payloadCount (W : Nat) (w : Word) : Nat :=
  if w = 0x88000000 ∨ w = 0xA0000001 then W else 0

/-- Decode the instruction at the head of a sequence of words, and the words behind it (R150, R449). `W` is the number of
payload words of a record. -/
def decode (W : Nat) : List Word → Except DecodeError (Instr × List Word)
  | [] => .error .noWord
  | w :: rest =>
    if rest.length < payloadCount W w then .error .truncated
    else
      match decodeOp w (bytesOfWords (rest.take (payloadCount W w))) with
      | .ok i => .ok (i, rest.drop (payloadCount W w))
      | .error e => .error e

/-! ### Encoding -/

/-- The opcode word of an instruction (R142, R144). -/
def Instr.opcodeWord : Instr → Word
  | .reservedOp00 low => 0x00#5 ++ low
  | .edge r t => 0x01#5 ++ 0#10 ++ BitVec.ofBool r ++ t
  | .uartByte d t => 0x02#5 ++ 0#3 ++ d ++ t
  | .alarmPpm => 0x03#5 ++ 0#27
  | .alarmSrxl => 0x04#5 ++ 0#27
  | .tick => 0x05#5 ++ 0#27
  | .reservedOp06 low => 0x06#5 ++ low
  | .reservedOp07 low => 0x07#5 ++ low
  | .update => 0x08#5 ++ 0#27
  | .getSource => 0x09#5 ++ 0#27
  | .getCount => 0x0A#5 ++ 0#27
  | .getInput i => 0x0B#5 ++ 0#19 ++ i
  | .getOutput i => 0x0C#5 ++ 0#19 ++ i
  | .getDecoderStatus k => 0x0D#5 ++ 0#25 ++ k
  | .clearNewData k => 0x0E#5 ++ 0#25 ++ k
  | .reservedOp0F low => 0x0F#5 ++ low
  | .cfgRead => 0x10#5 ++ 0#27
  | .cfgWrite _ => 0x11#5 ++ 0#27
  | .cfgDefault => 0x12#5 ++ 0#27
  | .cfgSave => 0x13#5 ++ 0#27
  | .cfgLoad pl => 0x14#5 ++ 0#26 ++ BitVec.ofBool pl.isSome
  | .reservedOp15 low => 0x15#5 ++ low
  | .reservedOp16 low => 0x16#5 ++ low
  | .reservedOp17 low => 0x17#5 ++ low
  | .reservedOp18 low => 0x18#5 ++ low
  | .reservedOp19 low => 0x19#5 ++ low
  | .reservedOp1A low => 0x1A#5 ++ low
  | .reservedOp1B low => 0x1B#5 ++ low
  | .reservedOp1C low => 0x1C#5 ++ low
  | .reservedOp1D low => 0x1D#5 ++ low
  | .reservedOp1E low => 0x1E#5 ++ low
  | .reset => 0x1F#5 ++ 0#27

/-- The words of an instruction: its opcode word and its payload words (R142, R150). -/
def encode (i : Instr) : List Word := i.opcodeWord :: wordsOfBytes i.payload

/-- Word `k` of an instruction whose bits are `w`, where bit 0 of `w` is the least significant bit of the first word. -/
def tableWord (nbits w k : Nat) : Word := BitVec.ofNat 32 (w % 2 ^ nbits / 2 ^ (32 * k))

/-- The words of an instruction whose bits are `w`, with every bit above `nbits` zero, up to the longest instruction. -/
def tableWords (W nbits w : Nat) : List Word := (List.range (1 + W)).map (tableWord nbits w)

/-- The instruction the decoder reads from an instruction whose bits are `w` (the host's question), at the parameters of
the reset state. -/
def decodeTableWord (nbits w : Nat) : Option Instr :=
  match decode Params.default.payloadWords (tableWords Params.default.payloadWords nbits w) with
  | .ok (i, _) => some i
  | .error _ => none

end Sys2Proof
end

