-- ==== Sys2Proof/Machine/Record.lean ====
section
/-! DEFINITION. The configuration record: its fields (R35), its little-endian byte image `CFGREC` (R104), its validation
(R400) and the defaults (R402). -/

namespace Sys2Proof.Machine

/-- The configuration registers `cfg` (R35). `mapping` has `MAX_OUTPUT_CHANNELS` entries. -/
structure CfgRecord where
  version          : U16
  minSyncWidth     : U16
  pulseWidthCenter : U16
  pulseWidthRange  : U16
  clockCorrection  : U16
  invertMask       : U16
  flags            : Byte
  reserved         : Byte
  mapping          : List Byte
deriving DecidableEq, Repr

/-- `PPM_INVERT`, bit 0 of `cfg.flags` (R35). -/
def CfgRecord.ppmInvert (c : CfgRecord) : Bool := c.flags.getLsbD 0

/-- The two bytes of a 16-bit field, low byte first (R104). -/
def leBytes (v : U16) : List Byte := [v.extractLsb' 0 8, v.extractLsb' 8 8]

/-- Byte `k` of a record image. A record has at least `CONFIG_SIZE` bytes wherever a rule reads one, so the default is
never taken there. -/
def recByte (bs : List Byte) (k : Nat) : Byte := bs.getD k 0

/-- The 16-bit little-endian field at byte offset `k` of a record image (R104). -/
def recField (bs : List Byte) (k : Nat) : U16 := recByte bs (k + 1) ++ recByte bs k

/-- `encode(cfg)`: the image of a record, field by field at the offsets of R104. -/
def encodeRecord (c : CfgRecord) : List Byte :=
  leBytes c.version ++ leBytes c.minSyncWidth ++ leBytes c.pulseWidthCenter ++ leBytes c.pulseWidthRange ++
    leBytes c.clockCorrection ++ leBytes c.invertMask ++ [c.flags, c.reserved] ++ c.mapping

/-- `decode(bytes)`: the record an image holds (R104). Bytes beyond `CONFIG_SIZE` are pad bytes and are ignored (R105). -/
def decodeRecord (p : Params) (bs : List Byte) : CfgRecord where
  version          := recField bs 0
  minSyncWidth     := recField bs 2
  pulseWidthCenter := recField bs 4
  pulseWidthRange  := recField bs 6
  clockCorrection  := recField bs 8
  invertMask       := recField bs 10
  flags            := recByte bs 12
  reserved         := recByte bs 13
  mapping          := (List.range p.maxOutputChannels).map fun o => recByte bs (14 + o)

/-- The demands of `cfg_valid` on a decoded record (R400). `clockCorrection`, `invertMask`, `flags` and `reserved` are
not checked. -/
abbrev CfgRecord.Legal (p : Params) (c : CfgRecord) : Prop :=
  c.version.toNat = p.configVersion ∧
  (p.minSyncLo ≤ c.minSyncWidth.toNat ∧ c.minSyncWidth.toNat ≤ p.minSyncHi) ∧
  (p.centerLo ≤ c.pulseWidthCenter.toNat ∧ c.pulseWidthCenter.toNat ≤ p.centerHi) ∧
  (p.rangeLo ≤ c.pulseWidthRange.toNat ∧ c.pulseWidthRange.toNat ≤ p.rangeHi) ∧
  c.mapping.length = p.maxOutputChannels ∧
  ∀ m ∈ c.mapping, m.toNat ≤ p.maxInputChannels

/-- `cfg_valid(rec)` (R400). -/
def cfgValid (p : Params) (bs : List Byte) : Bool := decide ((decodeRecord p bs).Legal p)

/-- `cfg_defaults()`, the reset values of R35 (R402). -/
def cfgDefaults (p : Params) : CfgRecord where
  version          := BitVec.ofNat 16 p.configVersion
  minSyncWidth     := 3500
  pulseWidthCenter := 1500
  pulseWidthRange  := 500
  clockCorrection  := 32768
  invertMask       := 0
  flags            := 0
  reserved         := 0
  mapping          := (List.range p.maxOutputChannels).map fun o => BitVec.ofNat 8 (o + 1)

end Sys2Proof.Machine
end

