-- ==== Sys2Proof/Machine/State.lean ====
section
/-! DEFINITION. The architectural state (`10_state.md`), the ports, the reset state (R550), and the reasons a step can
stop. Registers the rules treat as bits are bit vectors, one-bit registers are `Bool`, and the decoder state and the
signal source are enumerations (log entry 8). -/

namespace Sys2Proof.Machine

/-- The state of a decoder (R32): WaitingForSync 0, SyncDetected 1, ReceivingData 2. The code 3 is never written. -/
inductive DecoderState where
  | wfs
  | sd
  | rd
deriving DecidableEq, Repr

/-- The active signal source (R72): None 0, PPM 1, PCM 2, SRXL 3. -/
inductive Source where
  | none
  | ppm
  | pcm
  | srxl
deriving DecidableEq, Repr

/-- The two banks of a decoder (R90), each with as many entries as the parameter of R10 that gives its size. The bank index
is one bit: `false` is bank 0, `true` is bank 1. -/
structure Banks (α : Type) where
  bank0 : List α
  bank1 : List α
deriving DecidableEq, Repr

/-- The unit `ppm` (R44). -/
structure Ppm where
  state      : DecoderState
  chIndex    : BitVec 4
  lastEdge   : U16
  bank       : Banks U16
  sel        : Bool
  count      : BitVec 4
  newData    : Bool
  receiving  : Bool
  timeout    : BitVec 8
  alarmArmed : Bool
  alarmAt    : U16
deriving DecidableEq, Repr

/-- The unit `pcm` (R54). -/
structure Pcm where
  state       : DecoderState
  lastEdge    : U16
  syncPending : Bool
  lastBits    : BitVec 2
  symInByte   : BitVec 3
  acc         : BitVec 8
  byteIndex   : BitVec 4
  bank        : Banks Byte
  sel         : Bool
  count       : BitVec 4
  newData     : Bool
  receiving   : Bool
  timeout     : BitVec 8
deriving DecidableEq, Repr

/-- The unit `srxl` (R64). -/
structure Srxl where
  state      : DecoderState
  byteIndex  : BitVec 6
  expected   : BitVec 6
  bank       : Banks Byte
  sel        : Bool
  count      : BitVec 5
  newData    : Bool
  receiving  : Bool
  timeout    : BitVec 8
  alarmArmed : Bool
  alarmAt    : U16
deriving DecidableEq, Repr

/-- The unit `agg` (R72). Bit 0 of `prevReceiving` is PPM, bit 1 PCM, bit 2 SRXL. -/
structure Agg where
  source        : Source
  prevReceiving : BitVec 3
deriving DecidableEq, Repr

/-- The input assembler `inp` (R80). `buf` has `4 * W` bytes. -/
structure Inp where
  need : BitVec 8
  op   : Word
  buf  : List Byte
deriving DecidableEq, Repr

/-- The state of the block. The ports are sequences of words, oldest first (R140, R550, R580; log entries 4 and 6).
`params` are the parameters of R10: no step writes them (log entry 1). -/
structure State where
  params        : Params
  cfg           : CfgRecord
  ppm           : Ppm
  pcm           : Pcm
  srxl          : Srxl
  agg           : Agg
  inp           : Inp
  input         : List Word
  responses     : List Word
  notifications : List Word
  store         : List (List Byte)
deriving DecidableEq, Repr

/-- Banks of `n` entries, every one zero (R550). -/
def Banks.zero {w : Nat} (n : Nat) : Banks (BitVec w) := ⟨List.replicate n 0, List.replicate n 0⟩

/-- The reset values of `ppm` (R44, R550). -/
def Ppm.reset (p : Params) : Ppm where
  state      := .wfs
  chIndex    := 0
  lastEdge   := 0
  bank       := .zero p.ppmMaxChannels
  sel        := false
  count      := 0
  newData    := false
  receiving  := false
  timeout    := BitVec.ofNat 8 p.ppmTimeoutTicks
  alarmArmed := false
  alarmAt    := 0

/-- The reset values of `pcm` (R54, R550). -/
def Pcm.reset (p : Params) : Pcm where
  state       := .wfs
  lastEdge    := 0
  syncPending := false
  lastBits    := 0
  symInByte   := 0
  acc         := 0
  byteIndex   := 0
  bank        := .zero p.pcmBankSize
  sel         := false
  count       := 0
  newData     := false
  receiving   := false
  timeout     := BitVec.ofNat 8 p.pcmTimeoutTicks

/-- The reset values of `srxl` (R64, R550). -/
def Srxl.reset (p : Params) : Srxl where
  state      := .wfs
  byteIndex  := 0
  expected   := 0
  bank       := .zero p.srxlBankSize
  sel        := false
  count      := 0
  newData    := false
  receiving  := false
  timeout    := BitVec.ofNat 8 p.srxlTimeoutTicks
  alarmArmed := false
  alarmAt    := 0

/-- The reset values of `agg` (R72, R550). -/
def Agg.reset : Agg := ⟨.none, 0⟩

/-- The idle input assembler (R80, R550). -/
def Inp.reset (p : Params) : Inp := ⟨0, 0, List.replicate (4 * p.payloadWords) 0⟩

/-- The power-on state of a block with the parameters `p` (R550). -/
def State.powerOn (p : Params) : State where
  params        := p
  cfg           := cfgDefaults p
  ppm           := .reset p
  pcm           := .reset p
  srxl          := .reset p
  agg           := .reset
  inp           := .reset p
  input         := []
  responses     := []
  notifications := []
  store         := []

/-- The machine right after reset (R550), at the parameter values R10 shows (log entry 1). -/
def State.reset : State := State.powerOn Params.default

/-- The indexed spaces of the block (R100). -/
inductive Space where
  | ppmBank
  | pcmBank
  | srxlBank
  | cfgRec
deriving DecidableEq, Repr

/-- Why the machine stops. No rule of the spec stops the block (R500), so each is the model's. -/
inductive Fault where
  /-- The input port is empty in the middle of a multi-word instruction: the run is stuck
  (`93_implementation_defined.md` item 20, R580). Raised by `step`. Safe. -/
  | inputEndsInsideInstruction
  /-- An index outside a bank or a record, which R101 says is never formed. Raised by UART_BYTE, GET_INPUT and GET_OUTPUT
  in states that no run from reset reaches (log entry 7). Safe. -/
  | indexOutOfRange (space : Space) (index : Nat)
  /-- A zero `cfg.pulseWidthRange`, which R360 says never occurs. Raised by GET_OUTPUT in states that no run from reset
  reaches (log entry 7). Safe. -/
  | zeroPulseWidthRange
deriving DecidableEq, Repr

/-- Why the machine refuses a step. -/
inductive Refusal where
  /-- An instruction with no meaning yet. Raised by an arm of `exec` only; no arm does so any more. Safe. -/
  | notModelled (mnemonic : String)
  /-- A parameter set the spec does not admit (`93_implementation_defined.md` items 6, 9 and 10, treatment "refuse"),
  or one whose sizes the registers and banks cannot hold. Raised by `step` (log entry 2). Safe. -/
  | parametersNotAdmitted
deriving DecidableEq, Repr

end Sys2Proof.Machine
end

