-- ==== Sys2Proof/Machine/Ops.lean ====
section
/-! DEFINITION. The named operations over the state: numeric codes, tick conversions, bank accesses, the output ports,
and the report of an error. The block has no traps and no return from one (R500, R520, R521): the entry into error handling
that the spec describes is `raiseError` here, and the recovery is the rule the error table names (R501). -/

namespace Sys2Proof.Machine

/-! ### Codes -/

/-- The code of a decoder state (R32). -/
def DecoderState.code : DecoderState → BitVec 2
  | .wfs => 0
  | .sd => 1
  | .rd => 2

/-- The code of a signal source (R72). -/
def Source.code : Source → BitVec 2
  | .none => 0
  | .ppm => 1
  | .pcm => 2
  | .srxl => 3

/-- One of the three decoders. -/
inductive DecoderId where
  | ppm
  | pcm
  | srxl
deriving DecidableEq, Repr

/-- The number of a decoder in a notification word and in the operand `k` (R143, R148). -/
def DecoderId.code : DecoderId → BitVec 2
  | .ppm => 1
  | .pcm => 2
  | .srxl => 3

/-- The cause codes of an ERROR (R501). -/
inductive Cause where
  | pcmDesync
  | pcmChecksum
  | pcmTrailer
  | srxlHeader
  | srxlCrc
  | srxlSyncLost
  | timeout
  | configInvalid
  | illegalCommand
deriving DecidableEq, Repr

/-- The number of a cause (R501). -/
def Cause.code : Cause → BitVec 8
  | .pcmDesync => 0x10
  | .pcmChecksum => 0x11
  | .pcmTrailer => 0x12
  | .srxlHeader => 0x20
  | .srxlCrc => 0x21
  | .srxlSyncLost => 0x22
  | .timeout => 0x30
  | .configInvalid => 0x40
  | .illegalCommand => 0x41

/-- The response status codes (R146). -/
inductive Status where
  | ok
  | illegal
  | range
  | configInvalid
deriving DecidableEq, Repr

/-- The number of a status (R146). -/
def Status.code : Status → BitVec 8
  | .ok => 0x00
  | .illegal => 0x01
  | .range => 0x02
  | .configInvalid => 0x03

/-! ### Ticks and microseconds (R11, R16) -/

/-- A value stored as a tick count: truncated to `TICK_BITS` bits (R10, R16 `trunc_N`; log entry 9). At the 16 bits of R10
it is the value itself. -/
def truncTicks (p : Params) (v : U16) : U16 := BitVec.ofNat 16 (v.toNat % 2 ^ p.tickBits)

/-- `ticksToUs(t) = floor(t / TICKS_PER_US)` (R11). -/
def ticksToUs (p : Params) (t : U16) : Nat := t.toNat / p.ticksPerUs

/-- `usToTicks(u) = (u * TICKS_PER_US) mod 2^16` (R11), at `TICK_BITS = 16`. -/
def usToTicks (p : Params) (u : Nat) : U16 := BitVec.ofNat 16 (u * p.ticksPerUs % 2 ^ p.tickBits)

/-- `a -16 b`, the wraparound-safe difference of two tick counts (R16), at `TICK_BITS = 16`. -/
def ticksSub (p : Params) (a b : U16) : U16 := truncTicks p (a - b)

/-! ### Bank accesses (R17, R101) -/

/-- Bank `b` (R90). -/
def Banks.side {α : Type} (bk : Banks α) (b : Bool) : List α :=
  if b then bk.bank1 else bk.bank0

/-- Both banks have `n` entries. -/
abbrev Banks.Sized {α : Type} (bk : Banks α) (n : Nat) : Prop := bk.bank0.length = n ∧ bk.bank1.length = n

/-- `MemRead` of entry `i` of bank `b` (R101): nothing where the bank has no entry `i`. -/
def Banks.read {α : Type} (bk : Banks α) (b : Bool) (i : Nat) : Option α := (bk.side b)[i]?

/-- `MemWrite` of entry `i` of bank `b` (R101). An index outside the bank writes nothing: every rule bounds its index
first, and a caller whose bound rests on an invariant of the run faults before it writes (log entry 7). -/
def Banks.write {α : Type} (bk : Banks α) (b : Bool) (i : Nat) (v : α) : Banks α :=
  if b then { bk with bank1 := bk.bank1.set i v } else { bk with bank0 := bk.bank0.set i v }

/-- `bank[b][i] <- bank[c][j]` (R101). An index outside a bank copies nothing (log entry 7). -/
def Banks.copy {α : Type} (bk : Banks α) (c : Bool) (j : Nat) (b : Bool) (i : Nat) : Banks α :=
  match bk.read c j with
  | some v => bk.write b i v
  | none => bk

/-- A read whose bound rests on an invariant of the run: outside the bank it is a fault (log entry 7). -/
def Banks.readOrFault {α : Type} (bk : Banks α) (space : Space) (b : Bool) (i : Nat) : Except Fault α :=
  match bk.read b i with
  | some v => .ok v
  | none => .error (.indexOutOfRange space i)

/-! ### Port words (R146, R148) -/

/-- A response word: status in bits 31:24, value in bits 15:0 (R146). -/
def responseWord (st : Status) (value : U16) : Word := st.code ++ 0#8 ++ value

/-- A notification word: kind in bits 31:28, decoder in 25:24, code in 23:16, value in 15:0 (R148). -/
def noteWord (kind : BitVec 4) (dec : BitVec 2) (code : BitVec 8) (value : U16) : Word :=
  kind ++ 0#2 ++ dec ++ code ++ value

/-- SYNC (`on_sync_detected`), kind 1 (R148). -/
def noteSync (d : DecoderId) : Word := noteWord 1 d.code 0 0

/-- FRAME (`on_frame_received`), kind 2, with the published channel count (R148). -/
def noteFrame (d : DecoderId) (count : U16) : Word := noteWord 2 d.code 0 count

/-- ERROR (`on_error`), kind 3, with the cause code; `none` is the block itself (R148, R501). -/
def noteError (d : Option DecoderId) (c : Cause) : Word := noteWord 3 (d.elim 0 DecoderId.code) c.code 0

/-! ### Output primitives (R18) -/

/-- `respond(status, value)`: one word on the response port (R18, R147). -/
def State.respond (s : State) (st : Status) (value : U16) : State :=
  { s with responses := s.responses ++ [responseWord st value] }

/-- `respond_payload(bytes)`: the payload words behind a response word, pad bytes 0 (R18, R105). -/
def State.respondPayload (s : State) (bytes : List Byte) : State :=
  { s with responses := s.responses ++ wordsOfBytes bytes }

/-- `note(…)`: words on the notification port, in order (R18, R148). -/
def State.notify (s : State) (notes : List Word) : State :=
  { s with notifications := s.notifications ++ notes }

/-- `store_put(bytes)`: a record handed to the configuration store (R18, R405). -/
def State.storePut (s : State) (bytes : List Byte) : State := { s with store := s.store ++ [bytes] }

/-- The report of an error, after its local recovery: an ERROR word, and nothing else. No control is redirected, nothing
is saved and no mode changes (R500, R520). -/
def State.raiseError (s : State) (d : Option DecoderId) (c : Cause) : State := s.notify [noteError d c]

/-! ### Unit writes -/

/-- Write the unit `ppm`. -/
def State.withPpm (s : State) (u : Ppm) : State := { s with ppm := u }
/-- Write the unit `pcm`. -/
def State.withPcm (s : State) (u : Pcm) : State := { s with pcm := u }
/-- Write the unit `srxl`. -/
def State.withSrxl (s : State) (u : Srxl) : State := { s with srxl := u }
/-- Write the unit `agg`. -/
def State.withAgg (s : State) (u : Agg) : State := { s with agg := u }
/-- Write the unit `cfg`. -/
def State.withCfg (s : State) (c : CfgRecord) : State := { s with cfg := c }
/-- Write the unit `inp` (only R150 does). -/
def State.withInp (s : State) (u : Inp) : State := { s with inp := u }
/-- Write what waits on the input port. -/
def State.withInput (s : State) (ws : List Word) : State := { s with input := ws }

/-- A meaning's answer as an outcome of a step. -/
def outcomeOf : Except Fault State → Host.Outcome State Fault Refusal
  | .ok s => .next s
  | .error f => .fault f

/-! ### Illegal words -/

/-- `illegal(w)` (R460): an ILLEGAL response and an ILLEGAL_COMMAND error. The fields of the word are not read and no
register changes. -/
def illegalWord (s : State) : State := (s.respond .illegal 0).raiseError none .illegalCommand

end Sys2Proof.Machine
end

