-- ==== Sys2Proof/Machine/Operands.lean ====
section
/-! DEFINITION. The operand forms of R143 as the rules use them: the decoder operand `k`, the index operand `i`, and the
record operand. The time `t`, the direction `r`, the byte `d` and the bit `p` are used as the decoder delivers them. -/

namespace Sys2Proof.Machine

/-- The decoder an operand `k` names: 1 PPM, 2 PCM, 3 SRXL; 0 is out of range (R143). -/
def decoderOperand (k : BitVec 2) : Option DecoderId :=
  if k = 1 then some .ppm else if k = 2 then some .pcm else if k = 3 then some .srxl else none

/-- The 0-based channel index of an operand `i` (R143). -/
def indexOperand (i : Byte) : Nat := i.toNat

/-- The record of a payload: its first `CONFIG_SIZE` bytes. The pad bytes behind them are ignored (R105). -/
def recordOperand (p : Params) (payload : List Byte) : List Byte := payload.take p.configSize

end Sys2Proof.Machine
end

