-- ==== Sys2Proof/Machine/Flags.lean ====
section
/-! DEFINITION. The flags of R85 and every computation over them: the publication of a frame, the idle timeout
counters, the receiving flags UPDATE sees, and the status value of a decoder. -/

namespace Sys2Proof.Machine

/-! ### Publication of a frame (R121): count, bank flip, newData, receiving and timeout, in one step -/

/-- Publish a PPM frame of `n` channels (R211). -/
def Ppm.publish (u : Ppm) (n : BitVec 4) : Ppm :=
  { u with count := n, sel := !u.sel, newData := true, receiving := true, timeout := 0 }

/-- Publish a PCM frame of `n` channels (R272). -/
def Pcm.publish (u : Pcm) (n : BitVec 4) : Pcm :=
  { u with count := n, sel := !u.sel, newData := true, receiving := true, timeout := 0 }

/-- Publish an SRXL frame of `n` channels (R312). -/
def Srxl.publish (u : Srxl) (n : BitVec 5) : Srxl :=
  { u with count := n, sel := !u.sel, newData := true, receiving := true, timeout := 0 }

/-! ### `newData` -/

/-- Clear the `newData` flag of one decoder (R372). -/
def State.clearNewDataOf (s : State) : DecoderId → State
  | .ppm => s.withPpm { s.ppm with newData := false }
  | .pcm => s.withPcm { s.pcm with newData := false }
  | .srxl => s.withSrxl { s.srxl with newData := false }

/-! ### The idle timeout counters (R213, R277, R316) -/

/-- What one TICK does to a timeout counter with the limit `limit`. -/
inductive TimeoutTick where
  /-- The counter is at its limit: it saturates. -/
  | saturated
  /-- The counter goes up and stays below its limit. -/
  | counting (t : BitVec 8)
  /-- The counter reaches its limit on this tick. -/
  | expired (t : BitVec 8)
deriving DecidableEq, Repr

/-- Count one tick: +1 below the limit, expired on the tick that reaches it (R213, R277, R316). -/
def timeoutTick (limit : Nat) (t : BitVec 8) : TimeoutTick :=
  if t.toNat < limit then
    if (t + 1).toNat = limit then .expired (t + 1) else .counting (t + 1)
  else .saturated

/-! ### `receiving` and the status value -/

/-- The receiving flags as UPDATE sees them: bit 0 PPM, bit 1 PCM, bit 2 SRXL (R350). -/
def State.receivingFlags (s : State) : BitVec 3 :=
  BitVec.ofBool s.srxl.receiving ++ BitVec.ofBool s.pcm.receiving ++ BitVec.ofBool s.ppm.receiving

/-- The value of GET_DECODER_STATUS: count in bits 15:8, newData in bit 3, receiving in bit 2, state in bits 1:0
(R371). -/
def statusValue (count : BitVec 8) (newData receiving : Bool) (st : DecoderState) : U16 :=
  count ++ 0#4 ++ BitVec.ofBool newData ++ BitVec.ofBool receiving ++ st.code

/-- The status value of one decoder (R371). -/
def State.decoderStatus (s : State) : DecoderId → U16
  | .ppm => statusValue (s.ppm.count.setWidth 8) s.ppm.newData s.ppm.receiving s.ppm.state
  | .pcm => statusValue (s.pcm.count.setWidth 8) s.pcm.newData s.pcm.receiving s.pcm.state
  | .srxl => statusValue (s.srxl.count.setWidth 8) s.srxl.newData s.srxl.receiving s.srxl.state

end Sys2Proof.Machine
end

