-- ==== Sys2Proof/Machine/Pcm.lean ====
section
/-! DEFINITION. The PCM decoder (`41_pcm.md`). A procedure takes the unit `pcm` and answers the unit after it and the
notification words it emits, in order. -/

namespace Sys2Proof.Machine

/-- `PCM_BOUNDARY_US`: each centre plus the guard (R10, R251). -/
def pcmBoundaries (p : Params) : List Nat := p.pcmCenterUs.toList.map (· + p.pcmGuardUs)

/-- `pcm_classify(gap)` (R250): how many boundaries the gap reaches, 0 to 7. -/
def pcmClassify (p : Params) (gap : U16) : Nat := (pcmBoundaries p).countP fun b => b ≤ ticksToUs p gap

/-- The PCM frame counters back to 0 (R57). -/
def pcmClearCounters (u : Pcm) : Pcm := { u with lastBits := 0, symInByte := 0, acc := 0, byteIndex := 0 }

/-- `pcm_sync()` (R262), taken in every state. -/
def pcmSync (u : Pcm) : Pcm × List Word :=
  ({ pcmClearCounters u with state := .sd }, [noteSync .pcm])

/-- `pcm_error(code)` (R274): the partial frame is dropped and the count is zeroed. -/
def pcmError (c : Cause) (u : Pcm) : Pcm × List Word :=
  ({ pcmClearCounters u with state := .wfs, count := 0 }, [noteError (some .pcm) c])

/-- `pcm_accept(n)` (R272). -/
def pcmAccept (n : BitVec 4) (u : Pcm) : Pcm × List Word :=
  ({ pcmClearCounters (u.publish n) with state := .wfs }, [noteFrame .pcm (n.setWidth 16)])

/-- `pcm_relocate()` (R273): in the active bank slots 6 and 7 move to 8 and 9, and are refilled from the stable bank, which
is only read. -/
def pcmRelocate (u : Pcm) : Pcm :=
  { u with
    bank :=
      (((u.bank.copy u.sel 6 u.sel 8).copy u.sel 7 u.sel 9).copy (!u.sel) 6 u.sel 6).copy (!u.sel) 7 u.sel 7 }

/-- `pcm_finish(tr)` (R270). -/
def pcmFinish (u : Pcm) : Pcm × List Word :=
  if u.acc = 0x0C then pcmAccept 8 u
  else if u.acc = 0x09 then pcmAccept 10 (pcmRelocate u)
  else pcmError .pcmTrailer u

/-- `pcm_trailer(bits)` (R268): two symbols, no checksum. -/
def pcmTrailer (bits : BitVec 8) (u : Pcm) : Pcm × List Word :=
  if u.symInByte + 1 = 2 then
    pcmFinish { u with acc := ((u.acc <<< 2) ||| bits) &&& 0x0F, symInByte := u.symInByte + 1 }
  else ({ u with acc := ((u.acc <<< 2) ||| bits) &&& 0x0F, symInByte := u.symInByte + 1 }, [])

/-- `pcm_data(bits)` (R265): most significant pair first. -/
def pcmData (bits : BitVec 8) (u : Pcm) : Pcm :=
  { u with acc := (u.acc <<< 2) ||| bits, symInByte := u.symInByte + 1 }

/-- The check pair of a byte: the exclusive or of 3 and its four bit pairs (R266). -/
def pcmChecksum (b : BitVec 8) : BitVec 8 := (3 ^^^ (b >>> 6) ^^^ (b >>> 4) ^^^ (b >>> 2) ^^^ b) &&& 3

/-- `pcm_check(bits)` (R266): a byte enters the active bank only after its check passes. -/
def pcmCheck (bits : BitVec 8) (u : Pcm) : Pcm × List Word :=
  if bits = pcmChecksum u.acc then
    ({ u with bank := u.bank.write u.sel u.byteIndex.toNat u.acc, byteIndex := u.byteIndex + 1, symInByte := 0, acc := 0 },
      [])
  else pcmError .pcmChecksum u

/-- The bits a symbol recovers, `sym -8 (3 - lastBits)` (R264). -/
def pcmBits (sym : Nat) (lastBits : BitVec 2) : BitVec 8 := BitVec.ofNat 8 sym - (3 - lastBits.setWidth 8)

/-- The part of `pcm_symbol` behind the desync test (R263): data, check or trailer. -/
def pcmTake (p : Params) (bits : BitVec 8) (u : Pcm) : Pcm × List Word :=
  if u.byteIndex.toNat < p.pcmDataBytes then
    if u.symInByte.toNat < 4 then (pcmData bits u, []) else pcmCheck bits u
  else pcmTrailer bits u

/-- The first symbol of a frame moves SD to RD (R263). -/
def pcmBegin (u : Pcm) : Pcm := if u.state = .sd then { u with state := .rd } else u

/-- `pcm_symbol(sym)` (R263): the desync test comes before the checksum and trailer tests (R502). -/
def pcmSymbol (p : Params) (sym : Nat) (u : Pcm) : Pcm × List Word :=
  if 3 < (pcmBits sym u.lastBits).toNat then pcmError .pcmDesync (pcmBegin u)
  else pcmTake p (pcmBits sym u.lastBits) { pcmBegin u with lastBits := (pcmBits sym u.lastBits).setWidth 2 }

/-- `pcm_edge(t, r)` (R260). A rising edge decides `syncPending`; a falling edge is the sync, a symbol, or ignored in
WFS. -/
def pcmEdge (p : Params) (t : U16) (r : Bool) (u : Pcm) : Pcm × List Word :=
  if r then
    ({ u with
        lastEdge := truncTicks p t,
        syncPending := decide (p.pcmSyncMinUs ≤ ticksToUs p (ticksSub p t u.lastEdge)) }, [])
  else if u.syncPending then pcmSync { u with lastEdge := truncTicks p t, syncPending := false }
  else if u.state = .wfs then ({ u with lastEdge := truncTicks p t }, [])
  else pcmSymbol p (pcmClassify p (ticksSub p t u.lastEdge)) { u with lastEdge := truncTicks p t }

/-- `pcm_full_reset()` (R275). Banks, selector and last edge are kept. -/
def pcmFullReset (u : Pcm) : Pcm :=
  { pcmClearCounters u with state := .wfs, syncPending := false, count := 0, newData := false, receiving := false }

/-- `pcm_tick()` (R277). -/
def pcmTick (p : Params) (u : Pcm) : Pcm × List Word :=
  match timeoutTick p.pcmTimeoutTicks u.timeout with
  | .saturated => (u, [])
  | .counting t => ({ u with timeout := t }, [])
  | .expired t => (pcmFullReset { u with timeout := t }, [noteError (some .pcm) .timeout])

/-- `pcm_value_us(v)` (R280). -/
def pcmValueUs (v : Byte) : Nat := 1050 + 138 * v.toNat / 32

end Sys2Proof.Machine
end

