-- ==== Sys2Proof/Machine/Ppm.lean ====
section
/-! DEFINITION. The PPM decoder (`40_ppm.md`). A procedure takes the unit `ppm` and answers the unit after it and the
notification words it emits, in order: by its type it writes no other unit (R30). -/

namespace Sys2Proof.Machine

/-- `ppm_qualifies(r)` (R202): rising edges qualify when `PPM_INVERT` is 0, falling edges when it is 1. -/
def ppmQualifies (c : CfgRecord) (r : Bool) : Bool := r == !c.ppmInvert

/-- `ppm_threshold()` (R203), read from `cfg` at each use. -/
def ppmThreshold (p : Params) (c : CfgRecord) : U16 := usToTicks p c.minSyncWidth.toNat

/-- `ppm_record(width)` (R208): the gap is dropped once the bank is full. -/
def ppmRecord (p : Params) (width : U16) (u : Ppm) : Ppm :=
  if u.chIndex.toNat < p.ppmMaxChannels then
    { u with bank := u.bank.write u.sel u.chIndex.toNat width, chIndex := u.chIndex + 1 }
  else u

/-- `ppm_close_frame()` (R211): a frame of fewer than `PPM_MIN_CHANNELS` channels is discarded silently. -/
def ppmCloseFrame (p : Params) (u : Ppm) : Ppm × List Word :=
  if p.ppmMinChannels ≤ u.chIndex.toNat then
    ({ u.publish u.chIndex with chIndex := 0 }, [noteFrame .ppm (u.chIndex.setWidth 16)])
  else ({ u with chIndex := 0 }, [])

/-- `ppm_edge_rd(width, thr)` (R207): a gap below the threshold is a channel, any other gap closes the frame and the edge
starts the next one. -/
def ppmEdgeRd (p : Params) (width thr : U16) (u : Ppm) : Ppm × List Word :=
  if width.toNat < thr.toNat then (ppmRecord p width u, [])
  else ((ppmCloseFrame p u).1, (ppmCloseFrame p u).2 ++ [noteSync .ppm])

/-- What every qualifying edge does in every state: it is the last edge, and the alarm is re-armed one sync width after
it (R204). -/
def ppmRearm (p : Params) (t thr : U16) (u : Ppm) : Ppm :=
  { u with lastEdge := truncTicks p t, alarmAt := truncTicks p (t + thr), alarmArmed := true }

/-- `ppm_edge(t, r)` (R204 to R207). An edge of the other polarity has no effect (R202). -/
def ppmEdge (p : Params) (c : CfgRecord) (t : U16) (r : Bool) (u : Ppm) : Ppm × List Word :=
  if ppmQualifies c r then
    match u.state with
    | .wfs => (ppmRearm p t (ppmThreshold p c) u, [])
    | .sd => ({ ppmRearm p t (ppmThreshold p c) u with state := .rd }, [])
    | .rd => ppmEdgeRd p (ticksSub p t u.lastEdge) (ppmThreshold p c) (ppmRearm p t (ppmThreshold p c) u)
  else (u, [])

/-- `ppm_alarm_fire()` (R210). -/
def ppmAlarmFire (p : Params) (u : Ppm) : Ppm × List Word :=
  match u.state with
  | .wfs => ({ u with state := .sd }, [noteSync .ppm])
  | .sd => (u, [])
  | .rd => ({ (ppmCloseFrame p u).1 with state := .sd }, (ppmCloseFrame p u).2 ++ [noteSync .ppm])

/-- ALARM_PPM on the unit (R201): one-shot, and ignored when no alarm is armed. -/
def ppmAlarm (p : Params) (u : Ppm) : Ppm × List Word :=
  if u.alarmArmed then ppmAlarmFire p { u with alarmArmed := false } else (u, [])

/-- `ppm_full_reset()` (R215). Banks, selector, last edge and alarm are kept. -/
def ppmFullReset (u : Ppm) : Ppm :=
  { u with state := .wfs, chIndex := 0, count := 0, newData := false, receiving := false }

/-- `ppm_tick()` (R213): the full reset happens once, on the tick that reaches the limit. -/
def ppmTick (p : Params) (u : Ppm) : Ppm × List Word :=
  match timeoutTick p.ppmTimeoutTicks u.timeout with
  | .saturated => (u, [])
  | .counting t => ({ u with timeout := t }, [])
  | .expired t => (ppmFullReset { u with timeout := t }, [noteError (some .ppm) .timeout])

end Sys2Proof.Machine
end

