-- ==== Sys2Proof/Machine/Srxl.lean ====
section
/-! DEFINITION. The SRXL decoder (`42_srxl.md`). A procedure takes the unit `srxl` and answers the unit after it and the
notification words it emits, in order. Storing a byte faults where the byte index is outside the bank (log entry 7). -/

namespace Sys2Proof.Machine

/-- `srxl_window()` (R302). -/
def srxlWindow (p : Params) : U16 := usToTicks p p.srxlSyncTimeoutUs

/-! ### CRC-16 (R310): polynomial 0x1021, initial value 0, most significant bit first -/

/-- One shift of the CRC register (R310). -/
def crcShift (c : U16) : U16 := if c.msb then (c <<< 1) ^^^ 0x1021 else c <<< 1

/-- `n` shifts of the CRC register (R310). -/
def crcShifts : Nat → U16 → U16
  | 0, c => c
  | n + 1, c => crcShifts n (crcShift c)

/-- One byte into the CRC register (R310). -/
def crcByte (c : U16) (b : Byte) : U16 := crcShifts 8 (c ^^^ (b.setWidth 16 <<< 8))

/-- `crc16(bytes)` (R310). -/
def crc16 (bytes : List Byte) : U16 := bytes.foldl crcByte 0

/-! ### Frames -/

/-- The SRXL frame counters back to 0 (R67). -/
def srxlClearCounters (u : Srxl) : Srxl := { u with byteIndex := 0, expected := 0 }

/-- `srxl_error(code)` (R314): the count and the stable bank are kept. -/
def srxlError (c : Cause) (u : Srxl) : Srxl × List Word :=
  ({ srxlClearCounters u with state := .wfs }, [noteError (some .srxl) c])

/-- `srxl_accept(n)` (R312). -/
def srxlAccept (n : BitVec 5) (u : Srxl) : Srxl × List Word :=
  ({ srxlClearCounters (u.publish n) with state := .wfs }, [noteFrame .srxl (n.setWidth 16)])

/-- `srxl_check()` (R311): the CRC over all bytes but the last two, against those two, high byte first. A frame length
that the bank cannot hold, or without a CRC, is an index outside the bank: a fault (log entry 7). -/
def srxlCheck (u : Srxl) : Except Fault (Srxl × List Word) :=
  if u.expected.toNat < 2 then .error (.indexOutOfRange .srxlBank u.expected.toNat)
  else
    match u.bank.read u.sel (u.expected.toNat - 2), u.bank.read u.sel (u.expected.toNat - 1) with
    | some hi, some lo =>
      if crc16 ((u.bank.side u.sel).take (u.expected.toNat - 2)) = hi ++ lo then
        .ok (srxlAccept (if u.expected = 27 then 12 else 16) u)
      else .ok (srxlError .srxlCrc u)
    | _, _ => .error (.indexOutOfRange .srxlBank u.expected.toNat)

/-- `srxl_store(d)` (R306). -/
def srxlStore (d : Byte) (u : Srxl) : Except Fault (Srxl × List Word) :=
  if u.byteIndex.toNat < (u.bank.side u.sel).length then
    if u.byteIndex + 1 = u.expected then
      srxlCheck { u with bank := u.bank.write u.sel u.byteIndex.toNat d, byteIndex := u.byteIndex + 1 }
    else .ok ({ u with bank := u.bank.write u.sel u.byteIndex.toNat d, byteIndex := u.byteIndex + 1 }, [])
  else .error (.indexOutOfRange .srxlBank u.byteIndex.toNat)

/-- The total length of a frame by its header byte (R305). -/
def srxlFrameLength (d : Byte) : Option (BitVec 6) :=
  if d = 0xA1 then some 27 else if d = 0xA2 then some 35 else none

/-- `srxl_header(d)` (R305). -/
def srxlHeader (d : Byte) (u : Srxl) : Srxl × List Word :=
  match srxlFrameLength d with
  | some n => ({ u with expected := n, bank := u.bank.write u.sel 0 d, byteIndex := 1, state := .rd }, [])
  | none => srxlError .srxlHeader u

/-- What every byte does in every state: it re-arms the alarm one window after it (R303). -/
def srxlRearm (p : Params) (t : U16) (u : Srxl) : Srxl :=
  { u with alarmAt := truncTicks p (t + srxlWindow p), alarmArmed := true }

/-- `srxl_byte(d, t)` (R303). A byte in WFS is dropped. -/
def srxlByte (p : Params) (d : Byte) (t : U16) (u : Srxl) : Except Fault (Srxl × List Word) :=
  match u.state with
  | .wfs => .ok (srxlRearm p t u, [])
  | .sd => .ok (srxlHeader d (srxlRearm p t u))
  | .rd => srxlStore d (srxlRearm p t u)

/-- `srxl_alarm_fire()` (R307). -/
def srxlAlarmFire (u : Srxl) : Srxl × List Word :=
  match u.state with
  | .rd => ({ srxlClearCounters u with state := .sd }, [noteError (some .srxl) .srxlSyncLost, noteSync .srxl])
  | .wfs => ({ u with state := .sd }, [noteSync .srxl])
  | .sd => (u, [])

/-- ALARM_SRXL on the unit (R301): one-shot, and ignored when no alarm is armed. -/
def srxlAlarm (u : Srxl) : Srxl × List Word :=
  if u.alarmArmed then srxlAlarmFire { u with alarmArmed := false } else (u, [])

/-- `srxl_full_reset()` (R315). Banks, selector and alarm are kept. -/
def srxlFullReset (u : Srxl) : Srxl :=
  { srxlClearCounters u with state := .wfs, count := 0, newData := false, receiving := false }

/-- `srxl_tick()` (R316). -/
def srxlTick (p : Params) (u : Srxl) : Srxl × List Word :=
  match timeoutTick p.srxlTimeoutTicks u.timeout with
  | .saturated => (u, [])
  | .counting t => ({ u with timeout := t }, [])
  | .expired t => (srxlFullReset { u with timeout := t }, [noteError (some .srxl) .timeout])

/-! ### Channel values (R320) -/

/-- `srxl_raw(c)`: the low 12 bits of the big-endian pair of channel `c` in the stable bank (R102, R320). -/
def srxlRaw (u : Srxl) (c : Nat) : Except Fault (BitVec 12) :=
  match u.bank.readOrFault .srxlBank (!u.sel) (1 + 2 * c), u.bank.readOrFault .srxlBank (!u.sel) (2 + 2 * c) with
  | .ok hi, .ok lo => .ok (hi.extractLsb' 0 4 ++ lo)
  | .error f, _ => .error f
  | _, .error f => .error f

/-- The width of a raw value in µs: `800 + floor(raw * 1400 / 4096)` (R320). -/
def srxlValueUs (raw : BitVec 12) : Nat := 800 + raw.toNat * 1400 / 4096

end Sys2Proof.Machine
end

