-- ==== Sys2Proof/Machine/Aggregator.lean ====
section
/-! DEFINITION. The receiver aggregator (`43_aggregator.md`): source selection, channel values, output values, and the
meanings of UPDATE, GET_SOURCE, GET_COUNT, GET_INPUT, GET_OUTPUT, GET_DECODER_STATUS and CLEAR_NEW_DATA. -/

namespace Sys2Proof.Machine

/-! ### Source selection -/

/-- `agg_select_fixed(now)` (R356). -/
def aggSelectFixed (now : BitVec 3) : Source :=
  if now.getLsbD 0 then .ppm else if now.getLsbD 1 then .pcm else if now.getLsbD 2 then .srxl else .none

/-- The flag of a source in a set of receiving flags. -/
def sourceReceives (now : BitVec 3) : Source → Bool
  | .none => false
  | .ppm => now.getLsbD 0
  | .pcm => now.getLsbD 1
  | .srxl => now.getLsbD 2

/-- `agg_select_last(now, prev)` (R357), with the current source. -/
def aggSelectLast (now prev : BitVec 3) (current : Source) : Source :=
  if now &&& ~~~prev ≠ 0 then aggSelectFixed (now &&& ~~~prev)
  else if sourceReceives now current then current
  else aggSelectFixed now

/-- The source UPDATE selects, by the parameter `SOURCE_SELECT` (R350). -/
def aggSelect (p : Params) (now : BitVec 3) (a : Agg) : Source :=
  match p.sourceSelect with
  | .fixed => aggSelectFixed now
  | .lastReceiving => aggSelectLast now a.prevReceiving a.source

/-- `agg_count()` (R358). -/
def aggCount (s : State) : Nat :=
  match s.agg.source with
  | .none => 0
  | .ppm => s.ppm.count.toNat
  | .pcm => s.pcm.count.toNat
  | .srxl => s.srxl.count.toNat

/-! ### Channel values -/

/-- `ppm_corrected_us(ticks)` (R363, R364): the product is exact and the result is floored. -/
def ppmCorrectedUs (p : Params) (c : CfgRecord) (ticks : U16) : Nat :=
  2 * ticksToUs p ticks * c.clockCorrection.toNat / 65536

/-- `agg_input_us(i)` (R362), from the stable bank of the selected decoder. Without a source there is no decoder to
select: every rule that uses it tests that first. -/
def aggInputUs (s : State) (i : Nat) : Except Fault Nat :=
  match s.agg.source with
  | .none => .ok 0
  | .ppm => (s.ppm.bank.readOrFault .ppmBank (!s.ppm.sel) i).map (ppmCorrectedUs s.params s.cfg)
  | .pcm => (s.pcm.bank.readOrFault .pcmBank (!s.pcm.sel) i).map pcmValueUs
  | .srxl => (srxlRaw s.srxl i).map srxlValueUs

/-! ### Output values (R360) -/

/-- The neutral output (R360). -/
def neutralOutput : Byte := 128

/-- `min(max(v, 0), 255)` as a byte (R360). -/
def clampByte (v : Int) : Byte := BitVec.ofNat 8 (min (max v 0) 255).toNat

/-- The output of a pulse width `pw`: subtract the centre, negate if inverted, multiply by 128 and divide by the range
truncating toward zero, add 128, saturate (R360). The range is not zero (log entry 7). -/
def scaleOutput (pw center range : Nat) (invert : Bool) : Byte :=
  clampByte
    (Int.tdiv ((if invert then -((pw : Int) - center) else (pw : Int) - center) * 128) range + 128)

/-- `agg_output(o)` (R360), for `o < MAX_OUTPUT_CHANNELS`. -/
def aggOutput (s : State) (o : Nat) : Except Fault Byte :=
  match s.cfg.mapping[o]? with
  | none => .error (.indexOutOfRange .cfgRec (14 + o))
  | some m =>
    if m = 0 ∨ s.agg.source = .none ∨ aggCount s ≤ m.toNat - 1 then .ok neutralOutput
    else if s.cfg.pulseWidthRange = 0 then .error .zeroPulseWidthRange
    else
      (aggInputUs s (m.toNat - 1)).map fun pw =>
        scaleOutput pw s.cfg.pulseWidthCenter.toNat s.cfg.pulseWidthRange.toNat (s.cfg.invertMask.getLsbD o)

/-! ### Meanings -/

/-- UPDATE (R350). -/
def execUpdate (s : State) : Host.Outcome State Fault Refusal :=
  .next
    ((s.withAgg ⟨aggSelect s.params s.receivingFlags s.agg, s.receivingFlags⟩).respond .ok
      ((aggSelect s.params s.receivingFlags s.agg).code.setWidth 16))

/-- GET_SOURCE (R351). -/
def execGetSource (s : State) : Host.Outcome State Fault Refusal :=
  .next (s.respond .ok (s.agg.source.code.setWidth 16))

/-- GET_COUNT (R352). -/
def execGetCount (s : State) : Host.Outcome State Fault Refusal :=
  .next (s.respond .ok (BitVec.ofNat 16 (aggCount s)))

/-- GET_INPUT (R353): the width in µs, saturated at 0xFFFF, or RANGE. -/
def execGetInput (i : Byte) (s : State) : Host.Outcome State Fault Refusal :=
  if s.agg.source = .none ∨ aggCount s ≤ indexOperand i then .next (s.respond .range 0)
  else outcomeOf ((aggInputUs s (indexOperand i)).map fun us => s.respond .ok (BitVec.ofNat 16 (min us 0xFFFF)))

/-- GET_OUTPUT (R354). -/
def execGetOutput (i : Byte) (s : State) : Host.Outcome State Fault Refusal :=
  if s.params.maxOutputChannels ≤ indexOperand i then .next (s.respond .range 0)
  else outcomeOf ((aggOutput s (indexOperand i)).map fun v => s.respond .ok (v.setWidth 16))

/-- GET_DECODER_STATUS (R371). -/
def execGetDecoderStatus (k : BitVec 2) (s : State) : Host.Outcome State Fault Refusal :=
  match decoderOperand k with
  | none => .next (s.respond .range 0)
  | some d => .next (s.respond .ok (s.decoderStatus d))

/-- CLEAR_NEW_DATA (R372). -/
def execClearNewData (k : BitVec 2) (s : State) : Host.Outcome State Fault Refusal :=
  match decoderOperand k with
  | none => .next (s.respond .range 0)
  | some d => .next ((s.clearNewDataOf d).respond .ok 0)

end Sys2Proof.Machine
end

