-- ==== Sys2Proof/Machine/Configuration.lean ====
section
/-! DEFINITION. The configuration commands (`44_config.md`): CFG_READ, CFG_WRITE, CFG_DEFAULT, CFG_SAVE, CFG_LOAD. -/

namespace Sys2Proof.Machine

/-- `cfg_apply(rec)`: all fields in one step (R401). -/
def cfgApply (bytes : List Byte) (s : State) : State := s.withCfg (decodeRecord s.params bytes)

/-- `cfg_apply(encode(cfg_defaults()))` (R402, R412). -/
def cfgApplyDefaults (s : State) : State := cfgApply (encodeRecord (cfgDefaults s.params)) s

/-- CFG_READ (R410): the OK response, then the payload words of the record. -/
def execCfgRead (s : State) : Host.Outcome State Fault Refusal :=
  .next ((s.respond .ok 0).respondPayload (encodeRecord s.cfg))

/-- CFG_WRITE (R411): a record that is not valid leaves `cfg` unchanged. -/
def execCfgWrite (payload : List Byte) (s : State) : Host.Outcome State Fault Refusal :=
  if cfgValid s.params (recordOperand s.params payload) then
    .next ((cfgApply (recordOperand s.params payload) s).respond .ok 0)
  else .next ((s.respond .configInvalid 0).raiseError none .configInvalid)

/-- CFG_DEFAULT (R412). -/
def execCfgDefault (s : State) : Host.Outcome State Fault Refusal :=
  .next ((cfgApplyDefaults s).respond .ok 0)

/-- CFG_SAVE (R413). -/
def execCfgSave (s : State) : Host.Outcome State Fault Refusal :=
  .next ((s.storePut (encodeRecord s.cfg)).respond .ok 0)

/-- CFG_LOAD (R414): no stored record, or one that is not valid, gives the defaults. -/
def execCfgLoad (payload : Option (List Byte)) (s : State) : Host.Outcome State Fault Refusal :=
  match payload with
  | none => .next ((cfgApplyDefaults s).respond .ok 0)
  | some bytes =>
    if cfgValid s.params (recordOperand s.params bytes) then
      .next ((cfgApply (recordOperand s.params bytes) s).respond .ok 0)
    else .next (((cfgApplyDefaults s).respond .configInvalid 0).raiseError none .configInvalid)

end Sys2Proof.Machine
end

