-- ==== Sys2Proof/Machine/Events.lean ====
section
/-! DEFINITION. The event words (R152, R510): EDGE, UART_BYTE, ALARM_PPM, ALARM_SRXL and TICK. An event has no response
(R147). -/

namespace Sys2Proof.Machine

/-- Take what a PPM procedure answers: the unit, and its notifications. -/
def State.takePpm (s : State) (r : Ppm × List Word) : State := (s.withPpm r.1).notify r.2
/-- Take what a PCM procedure answers. -/
def State.takePcm (s : State) (r : Pcm × List Word) : State := (s.withPcm r.1).notify r.2
/-- Take what an SRXL procedure answers. -/
def State.takeSrxl (s : State) (r : Srxl × List Word) : State := (s.withSrxl r.1).notify r.2

/-- EDGE (R200): PPM first, then PCM. -/
def execEdge (r : Bool) (t : U16) (s : State) : Host.Outcome State Fault Refusal :=
  .next ((s.takePpm (ppmEdge s.params s.cfg t r s.ppm)).takePcm (pcmEdge s.params t r s.pcm))

/-- UART_BYTE (R300). -/
def execUartByte (d : Byte) (t : U16) (s : State) : Host.Outcome State Fault Refusal :=
  outcomeOf ((srxlByte s.params d t s.srxl).map s.takeSrxl)

/-- ALARM_PPM (R201). -/
def execAlarmPpm (s : State) : Host.Outcome State Fault Refusal :=
  .next (s.takePpm (ppmAlarm s.params s.ppm))

/-- ALARM_SRXL (R301). -/
def execAlarmSrxl (s : State) : Host.Outcome State Fault Refusal :=
  .next (s.takeSrxl (srxlAlarm s.srxl))

/-- TICK (R450): PPM, then PCM, then SRXL. -/
def execTick (s : State) : Host.Outcome State Fault Refusal :=
  .next
    (((s.takePpm (ppmTick s.params s.ppm)).takePcm (pcmTick s.params s.pcm)).takeSrxl (srxlTick s.params s.srxl))

end Sys2Proof.Machine
end

