-- ==== Sys2Proof/Machine/System.lean ====
section
/-! DEFINITION. RESET (R455) and the reserved opcodes (R460). -/

namespace Sys2Proof.Machine

/-- Every register of every unit at its reset value, `cfg` at its defaults (R30, R455, R550): the power-on state, but for
the ports, which keep what they hold. That `inp` is among the units is R550 and D29 against R80 (log entry 6). -/
def State.resetUnits (s : State) : State :=
  cfgApplyDefaults
    (((((s.withPpm (.reset s.params)).withPcm (.reset s.params)).withSrxl (.reset s.params)).withAgg .reset).withInp
      (.reset s.params))

/-- RESET (R455). -/
def execReset (s : State) : Host.Outcome State Fault Refusal := .next (s.resetUnits.respond .ok 0)

/-- The reserved opcode 0x00 (R145, R460). -/
def execReservedOp00 (_low : BitVec 27) (s : State) : Host.Outcome State Fault Refusal := .next (illegalWord s)

/-- The reserved opcode 0x06 (R145, R460). -/
def execReservedOp06 (_low : BitVec 27) (s : State) : Host.Outcome State Fault Refusal := .next (illegalWord s)

/-- The reserved opcode 0x07 (R145, R460). -/
def execReservedOp07 (_low : BitVec 27) (s : State) : Host.Outcome State Fault Refusal := .next (illegalWord s)

/-- The reserved opcode 0x0F (R145, R460). -/
def execReservedOp0F (_low : BitVec 27) (s : State) : Host.Outcome State Fault Refusal := .next (illegalWord s)

/-- The reserved opcode 0x15 (R145, R460). -/
def execReservedOp15 (_low : BitVec 27) (s : State) : Host.Outcome State Fault Refusal := .next (illegalWord s)

/-- The reserved opcode 0x16 (R145, R460). -/
def execReservedOp16 (_low : BitVec 27) (s : State) : Host.Outcome State Fault Refusal := .next (illegalWord s)

/-- The reserved opcode 0x17 (R145, R460). -/
def execReservedOp17 (_low : BitVec 27) (s : State) : Host.Outcome State Fault Refusal := .next (illegalWord s)

/-- The reserved opcode 0x18 (R145, R460). -/
def execReservedOp18 (_low : BitVec 27) (s : State) : Host.Outcome State Fault Refusal := .next (illegalWord s)

/-- The reserved opcode 0x19 (R145, R460). -/
def execReservedOp19 (_low : BitVec 27) (s : State) : Host.Outcome State Fault Refusal := .next (illegalWord s)

/-- The reserved opcode 0x1A (R145, R460). -/
def execReservedOp1A (_low : BitVec 27) (s : State) : Host.Outcome State Fault Refusal := .next (illegalWord s)

/-- The reserved opcode 0x1B (R145, R460). -/
def execReservedOp1B (_low : BitVec 27) (s : State) : Host.Outcome State Fault Refusal := .next (illegalWord s)

/-- The reserved opcode 0x1C (R145, R460). -/
def execReservedOp1C (_low : BitVec 27) (s : State) : Host.Outcome State Fault Refusal := .next (illegalWord s)

/-- The reserved opcode 0x1D (R145, R460). -/
def execReservedOp1D (_low : BitVec 27) (s : State) : Host.Outcome State Fault Refusal := .next (illegalWord s)

/-- The reserved opcode 0x1E (R145, R460). -/
def execReservedOp1E (_low : BitVec 27) (s : State) : Host.Outcome State Fault Refusal := .next (illegalWord s)

end Sys2Proof.Machine
end

