-- ==== Sys2Proof/Machine/Dispatch.lean ====
section
/-! DEFINITION. The dispatch of R449: one arm for each row of the opcode map, each one call of the row's rule. -/

namespace Sys2Proof.Machine

def exec (i : Instr) (s : State) : Host.Outcome State Fault Refusal :=
  match i with
  | .edge r t => Sys2Proof.Machine.execEdge r t s
  | .uartByte d t => Sys2Proof.Machine.execUartByte d t s
  | .alarmPpm => Sys2Proof.Machine.execAlarmPpm s
  | .alarmSrxl => Sys2Proof.Machine.execAlarmSrxl s
  | .tick => Sys2Proof.Machine.execTick s
  | .update => Sys2Proof.Machine.execUpdate s
  | .getSource => Sys2Proof.Machine.execGetSource s
  | .getCount => Sys2Proof.Machine.execGetCount s
  | .getInput idx => Sys2Proof.Machine.execGetInput idx s
  | .getOutput idx => Sys2Proof.Machine.execGetOutput idx s
  | .getDecoderStatus k => Sys2Proof.Machine.execGetDecoderStatus k s
  | .clearNewData k => Sys2Proof.Machine.execClearNewData k s
  | .cfgRead => Sys2Proof.Machine.execCfgRead s
  | .cfgWrite payload => Sys2Proof.Machine.execCfgWrite payload s
  | .cfgDefault => Sys2Proof.Machine.execCfgDefault s
  | .cfgSave => Sys2Proof.Machine.execCfgSave s
  | .cfgLoad payload => Sys2Proof.Machine.execCfgLoad payload s
  | .reset => Sys2Proof.Machine.execReset s
  | .reservedOp00 low => Sys2Proof.Machine.execReservedOp00 low s
  | .reservedOp06 low => Sys2Proof.Machine.execReservedOp06 low s
  | .reservedOp07 low => Sys2Proof.Machine.execReservedOp07 low s
  | .reservedOp0F low => Sys2Proof.Machine.execReservedOp0F low s
  | .reservedOp15 low => Sys2Proof.Machine.execReservedOp15 low s
  | .reservedOp16 low => Sys2Proof.Machine.execReservedOp16 low s
  | .reservedOp17 low => Sys2Proof.Machine.execReservedOp17 low s
  | .reservedOp18 low => Sys2Proof.Machine.execReservedOp18 low s
  | .reservedOp19 low => Sys2Proof.Machine.execReservedOp19 low s
  | .reservedOp1A low => Sys2Proof.Machine.execReservedOp1A low s
  | .reservedOp1B low => Sys2Proof.Machine.execReservedOp1B low s
  | .reservedOp1C low => Sys2Proof.Machine.execReservedOp1C low s
  | .reservedOp1D low => Sys2Proof.Machine.execReservedOp1D low s
  | .reservedOp1E low => Sys2Proof.Machine.execReservedOp1E low s

end Sys2Proof.Machine
end

