-- ==== Sys2Proof/Machine/Intake.lean ====
section
/-! DEFINITION. The length decoder and input assembler (R80, R150), and `execute` (R449). -/

namespace Sys2Proof.Machine

/-- Write bytes over a buffer from an offset on; what does not fit is dropped. -/
def overwrite : List Byte → Nat → List Byte → List Byte
  | buf, _, [] => buf
  | buf, at_, b :: bs => overwrite (buf.set at_ b) (at_ + 1) bs

/-- The buffer after the payload word `w`: "append the 4 bytes of w (LSB first)". Of `W` payload words `need` are still
expected, `w` among them, so `4 * (W - need)` bytes are already there (R150, log entry 13). -/
def Inp.append (p : Params) (u : Inp) (w : Word) : List Byte :=
  overwrite u.buf (4 * (p.payloadWords - u.need.toNat)) (bytesOfWord w)

/-- The input assembler with no instruction in progress: nothing is needed and the buffer is all 0. The last opcode word
stays in `op` (R150). -/
def Inp.cleared (p : Params) (u : Inp) : Inp := { u with need := 0, buf := List.replicate (4 * p.payloadWords) 0 }

/-- What the arrival of one word comes to. -/
inductive Arrival where
  /-- No instruction is complete yet. -/
  | collecting (u : Inp)
  /-- An instruction is complete: its opcode word, its payload bytes, and the input assembler behind it. -/
  | complete (w : Word) (payload : List Byte) (u : Inp)
deriving DecidableEq, Repr

/-- The length decoder on one arriving word (R150). The buffer is cleared with the completion, not after the execution:
no rule but R150 reads `inp` (R80), so the order cannot be seen (log entry 13). -/
def arrive (p : Params) (u : Inp) (w : Word) : Arrival :=
  if u.need ≠ 0 then
    if u.need = 1 then .complete u.op (u.append p w) (u.cleared p)
    else .collecting { u with need := u.need - 1, buf := u.append p w }
  else if payloadCount p.payloadWords w ≠ 0 then
    .collecting { u with op := w, need := BitVec.ofNat 8 (payloadCount p.payloadWords w) }
  else .complete w [] u

/-- `execute(w, rec)` (R449): the instruction the word spells runs; a word that spells none is illegal (R460). -/
def execute (w : Word) (payload : List Byte) (s : State) : Host.Outcome State Fault Refusal :=
  match decodeOp w payload with
  | .ok i => exec i s
  | .error _ => .next (illegalWord s)

/-- The word `w` arrives at the block (R150). -/
def takeWord (w : Word) (s : State) : Host.Outcome State Fault Refusal :=
  match arrive s.params s.inp w with
  | .collecting u => .next (s.withInp u)
  | .complete op payload u => execute op payload (s.withInp u)

/-- The input port is empty: between instructions the block idles and keeps its state (R541); inside one the run is stuck
(R580, `93_implementation_defined.md` item 20; log entry 5). -/
def awaitWord (s : State) : Host.Outcome State Fault Refusal :=
  if s.inp.need = 0 then .next s else .fault .inputEndsInsideInstruction

/-- Put the words of an instruction where the block takes its next one: the input assembler holds all its words but the
last, as R150 leaves them, and the last is the next on the port (log entry 4). -/
def State.present (s : State) (ws : List Word) : State :=
  match ws with
  | [] => s
  | w :: rest =>
    match (rest.take (payloadCount s.params.payloadWords w)).reverse with
    | [] => (s.withInp (s.inp.cleared s.params)).withInput (w :: s.input)
    | lastWord :: before =>
      (s.withInp
        ⟨1, w, overwrite (List.replicate (4 * s.params.payloadWords) 0) 0 (bytesOfWords before.reverse)⟩).withInput
        (lastWord :: s.input)

end Sys2Proof.Machine
end

