-- ==== Sys2Proof/Machine/Step.lean ====
section
/-! DEFINITION. One step of the block: one word of the input port (R140, R150; log entry 3). -/

namespace Sys2Proof.Machine

/-- Take the next word of the input port. A parameter set the spec does not admit is refused (log entry 2). -/
def step (s : State) : Host.Outcome State Fault Refusal :=
  if s.params.Admitted then
    match s.input with
    | [] => awaitWord s
    | w :: rest => takeWord w (s.withInput rest)
  else .refused .parametersNotAdmitted

/-- The state with the instruction whose bits are `w` as the block's next one (log entry 4). -/
def State.withFetchWord (s : State) (nbits w : Nat) : State :=
  s.present (tableWords s.params.payloadWords nbits w)

end Sys2Proof.Machine
end

