-- ==== Sys2Proof/Machine/Assembler.lean ====
section
/-! DEFINITION. The assembler syntax (R160) and the pseudo-instructions (R161): the lines, the words they stand for, and
the reading of a line of text. `;` starts a comment in R160 and separates operands in R161, so only the lines of R160 are
read from text; a pseudo-instruction is a line given as data (log entry 14). -/

namespace Sys2Proof.Machine

/-! ### Lines -/

/-- One `field=value` of `CFGWR` and `CFGLD` (R160). -/
inductive CfgField where
  | version (v : U16)
  | minSyncWidth (v : U16)
  | pulseWidthCenter (v : U16)
  | pulseWidthRange (v : U16)
  | clockCorrection (v : U16)
  | invertMask (v : U16)
  | flags (v : Byte)
  | reserved (v : Byte)
  | mapping (ms : List Byte)
deriving DecidableEq, Repr

/-- Give the field of a record its value. -/
def CfgField.assign (c : CfgRecord) : CfgField → CfgRecord
  | .version v => { c with version := v }
  | .minSyncWidth v => { c with minSyncWidth := v }
  | .pulseWidthCenter v => { c with pulseWidthCenter := v }
  | .pulseWidthRange v => { c with pulseWidthRange := v }
  | .clockCorrection v => { c with clockCorrection := v }
  | .invertMask v => { c with invertMask := v }
  | .flags v => { c with flags := v }
  | .reserved v => { c with reserved := v }
  | .mapping ms => { c with mapping := ms }

/-- The payload of a record written as fields: an omitted field takes its reset value (R160), and pad bytes are 0
(R105). -/
def fieldsPayload (p : Params) (fields : List CfgField) : List Byte :=
  bytesOfWords (wordsOfBytes (encodeRecord (fields.foldl CfgField.assign (cfgDefaults p))))

/-- One line: an instruction (R160) or a pseudo-instruction (R161). Times and widths are ticks. -/
inductive Line where
  /-- `EDGE.R t` and `EDGE.F t` -/
  | edge (r : Bool) (t : U16)
  /-- `UBYTE d, t` -/
  | ubyte (d : Byte) (t : U16)
  /-- `ALARM.PPM` -/
  | alarmPpm
  /-- `ALARM.SRXL` -/
  | alarmSrxl
  /-- `TICK` -/
  | tick
  /-- `UPDATE` -/
  | update
  /-- `GETSRC` -/
  | getsrc
  /-- `GETCNT` -/
  | getcnt
  /-- `GETIN i` -/
  | getin (i : Byte)
  /-- `GETOUT o` -/
  | getout (o : Byte)
  /-- `GETST k` -/
  | getst (k : BitVec 2)
  /-- `CLRND k` -/
  | clrnd (k : BitVec 2)
  /-- `CFGRD` -/
  | cfgrd
  /-- `CFGDEF` -/
  | cfgdef
  /-- `CFGSAVE` -/
  | cfgsave
  /-- `RESET` -/
  | reset
  /-- `CFGWR` with fields -/
  | cfgwr (fields : List CfgField)
  /-- `CFGLD` alone, or with fields -/
  | cfgld (fields : Option (List CfgField))
  /-- `IDLE n` -/
  | idle (n : Nat)
  /-- `PPMTRAIN.R t0; w1, ..., wn`, or `.F` -/
  | ppmtrain (r : Bool) (t0 : U16) (gaps : List U16)
  /-- `PCMCELL t, L, H` -/
  | pcmcell (t low high : U16)
  /-- `SRXLFRAME t0, dt; b0, ..., bm` -/
  | srxlframe (t0 dt : U16) (bytes : List Byte)
  /-- `REPORT` -/
  | report
  /-- `DIAG` -/
  | diag
deriving DecidableEq, Repr

/-- The edges of `PPMTRAIN` behind the first: one per gap (R161). -/
def trainEdges (r : Bool) : U16 → List U16 → List Instr
  | _, [] => []
  | t, w :: ws => .edge r (t + w) :: trainEdges r (t + w) ws

/-- The bytes of `SRXLFRAME`, `dt` ticks apart (R161). -/
def frameBytes (dt : U16) : U16 → List Byte → List Instr
  | _, [] => []
  | t, b :: bs => .uartByte b t :: frameBytes dt (t + dt) bs

/-- The instructions a line stands for (R160, R161). -/
def Line.instrs (p : Params) : Line → List Instr
  | .edge r t => [.edge r t]
  | .ubyte d t => [.uartByte d t]
  | .alarmPpm => [.alarmPpm]
  | .alarmSrxl => [.alarmSrxl]
  | .tick => [.tick]
  | .update => [.update]
  | .getsrc => [.getSource]
  | .getcnt => [.getCount]
  | .getin i => [.getInput i]
  | .getout o => [.getOutput o]
  | .getst k => [.getDecoderStatus k]
  | .clrnd k => [.clearNewData k]
  | .cfgrd => [.cfgRead]
  | .cfgdef => [.cfgDefault]
  | .cfgsave => [.cfgSave]
  | .reset => [.reset]
  | .cfgwr fields => [.cfgWrite (fieldsPayload p fields)]
  | .cfgld fields => [.cfgLoad (fields.map (fieldsPayload p))]
  | .idle n => List.replicate n .tick
  | .ppmtrain r t0 gaps => .edge r t0 :: trainEdges r t0 gaps
  | .pcmcell t low high => [.edge true (t + low), .edge false (t + low + high)]
  | .srxlframe t0 dt bytes => frameBytes dt t0 bytes
  | .report => .update :: (List.range p.maxOutputChannels).map fun o => .getOutput (BitVec.ofNat 8 o)
  | .diag =>
    .getSource :: .getCount :: (List.range p.maxInputChannels).map fun i => .getInput (BitVec.ofNat 8 i)

/-- The words of a program (R160, R161). -/
def assemble (p : Params) (lines : List Line) : List Word := lines.flatMap fun l => (l.instrs p).flatMap encode

/-! ### Text (R160) -/

/-- A token of a line. -/
inductive Token where
  | name (s : String)
  | number (n : Nat)
  | comma
  | equals
  | openBrace
  | closeBrace
  | openBracket
  | closeBracket
  | bad
deriving DecidableEq, Repr

/-- The value of a digit in a base, if it is one. -/
def digitValue (base : Nat) (c : Char) : Option Nat :=
  let v :=
    if '0' ≤ c ∧ c ≤ '9' then c.toNat - 48
    else if 'a' ≤ c ∧ c ≤ 'f' then c.toNat - 87
    else if 'A' ≤ c ∧ c ≤ 'F' then c.toNat - 55
    else base
  if v < base then some v else none

/-- The number some digits spell behind a value already read. -/
def digitsValue (base : Nat) : Nat → List Char → Option Nat
  | acc, [] => some acc
  | acc, c :: cs =>
    match digitValue base c with
    | some d => digitsValue base (acc * base + d) cs
    | none => none

/-- A decimal number, or a hexadecimal one with `0x` (R160). -/
def numberValue : List Char → Option Nat
  | '0' :: 'x' :: c :: cs => digitsValue 16 0 (c :: cs)
  | cs => digitsValue 10 0 cs

/-- The token of a run of characters between separators. -/
def wordToken (cs : List Char) : List Token :=
  match cs with
  | [] => []
  | c :: _ =>
    if '0' ≤ c ∧ c ≤ '9' then
      match numberValue cs with
      | some n => [.number n]
      | none => [.bad]
    else [.name (String.ofList cs)]

/-- The token of a punctuation character. -/
def punctuation (c : Char) : Option Token :=
  if c = ',' then some .comma
  else if c = '=' then some .equals
  else if c = '[' then some .openBracket
  else if c = ']' then some .closeBracket
  else if c.toNat = 123 then some .openBrace
  else if c.toNat = 125 then some .closeBrace
  else none

/-- The tokens of a line, with the characters of the current run. A `;` starts a comment (R160). -/
def tokens : List Char → List Char → List Token
  | run, [] => wordToken run
  | run, c :: cs =>
    if c = ';' then wordToken run
    else if c = ' ' ∨ c = '\t' then wordToken run ++ tokens [] cs
    else
      match punctuation c with
      | some t => wordToken run ++ t :: tokens [] cs
      | none => tokens (run ++ [c]) cs

/-- A number as an operand of `w` bits: refused if it does not fit. -/
def operand (w n : Nat) : Option (BitVec w) := if n < 2 ^ w then some (BitVec.ofNat w n) else none

/-- The 16-bit and 8-bit fields of a record by name. -/
def fieldOfName (s : String) (n : Nat) : Option CfgField :=
  if s = "version" then (operand 16 n).map .version
  else if s = "minSyncWidth" then (operand 16 n).map .minSyncWidth
  else if s = "pulseWidthCenter" then (operand 16 n).map .pulseWidthCenter
  else if s = "pulseWidthRange" then (operand 16 n).map .pulseWidthRange
  else if s = "clockCorrection" then (operand 16 n).map .clockCorrection
  else if s = "invertMask" then (operand 16 n).map .invertMask
  else if s = "flags" then (operand 8 n).map .flags
  else if s = "reserved" then (operand 8 n).map .reserved
  else none

/-- The entries of a mapping up to its closing bracket, and the tokens behind it. -/
def mappingEntries : List Token → Option (List Byte × List Token)
  | [.number n, .closeBracket] => (operand 8 n).map fun b => ([b], [])
  | .number n :: .closeBracket :: rest => (operand 8 n).map fun b => ([b], rest)
  | .number n :: .comma :: rest =>
    match operand 8 n, mappingEntries rest with
    | some b, some (bs, r) => some (b :: bs, r)
    | _, _ => none
  | _ => none

/-- The fields of a record up to its closing brace; nothing may follow. The first argument bounds their number. -/
def recordFields (p : Params) : Nat → List Token → Option (List CfgField)
  | 0, _ => none
  | _ + 1, [.closeBrace] => some []
  | k + 1, .name s :: .equals :: .number n :: rest =>
    match fieldOfName s n, rest with
    | some f, [.closeBrace] => some [f]
    | some f, .comma :: rest' => (recordFields p k rest').map (f :: ·)
    | _, _ => none
  | k + 1, .name s :: .equals :: .openBracket :: rest =>
    if s = "mapping" then
      match mappingEntries rest with
      | some (ms, rest') =>
        if ms.length = p.maxOutputChannels then
          match rest' with
          | [.closeBrace] => some [.mapping ms]
          | .comma :: rest'' => (recordFields p k rest'').map (.mapping ms :: ·)
          | _ => none
        else none
      | none => none
    else none
  | _ + 1, _ => none

/-- The operand `k` by name or number (R160). -/
def decoderName : Token → Option (BitVec 2)
  | .number n => operand 2 n
  | .name s => if s = "PPM" then some 1 else if s = "PCM" then some 2 else if s = "SRXL" then some 3 else none
  | _ => none

/-- A line without operands. -/
def bareLine (s : String) : Option Line :=
  if s = "ALARM.PPM" then some .alarmPpm
  else if s = "ALARM.SRXL" then some .alarmSrxl
  else if s = "TICK" then some .tick
  else if s = "UPDATE" then some .update
  else if s = "GETSRC" then some .getsrc
  else if s = "GETCNT" then some .getcnt
  else if s = "CFGRD" then some .cfgrd
  else if s = "CFGDEF" then some .cfgdef
  else if s = "CFGSAVE" then some .cfgsave
  else if s = "RESET" then some .reset
  else if s = "CFGLD" then some (.cfgld none)
  else none

/-- A line with one operand. -/
def unaryLine (s : String) (a : Token) : Option Line :=
  if s = "GETST" then (decoderName a).map .getst
  else if s = "CLRND" then (decoderName a).map .clrnd
  else
    match a with
    | .number n =>
      if s = "EDGE.R" then (operand 16 n).map (.edge true)
      else if s = "EDGE.F" then (operand 16 n).map (.edge false)
      else if s = "GETIN" then (operand 8 n).map .getin
      else if s = "GETOUT" then (operand 8 n).map .getout
      else none
    | _ => none

/-- The line some tokens spell (R160). -/
def parseTokens (p : Params) (ts : List Token) : Option Line :=
  match ts with
  | [.name s] => bareLine s
  | [.name s, a] => unaryLine s a
  | .name s :: .openBrace :: rest =>
    if s = "CFGWR" then (recordFields p (rest.length + 1) rest).map .cfgwr
    else if s = "CFGLD" then (recordFields p (rest.length + 1) rest).map fun fs => .cfgld (some fs)
    else none
  | [.name s, .number d, .comma, .number t] =>
    if s = "UBYTE" then
      match operand 8 d, operand 16 t with
      | some d, some t => some (.ubyte d t)
      | _, _ => none
    else none
  | _ => none

/-- The line a text spells (R160), if it spells one. -/
def parseLine (p : Params) (text : List Char) : Option Line := parseTokens p (tokens [] text)

end Sys2Proof.Machine
end

