-- ==== Sys2Proof/Machine/Environment.lean ====
section
/-! DEFINITION. The environment of the block and its duties (R575, R576): which instructions it may deliver, and when. The
block checks none of them, and `step` does not use this file. A claim about timing takes a `TimedRun` as its premise. -/

namespace Sys2Proof.Machine

/-- A move of the environment that is an instruction: it delivers it whole when the Tick Source stands at `time`. An edge or
a byte was captured at `captured`, which no other instruction reads. Both are unwrapped tick counts. A whole instruction is
delivered at once, so nothing stands between its words (R575 duty 5, R576). Words that spell no instruction are moves too:
`TimedRun.illegal`. -/
structure Move where
  time     : Nat
  captured : Nat
  instr    : Instr
deriving DecidableEq, Repr

/-- What the environment knows: the time of its last move, when the last edge and the last byte were captured, when the two
alarms the block has asked for are due, when the two alarms that RESET cancelled and that may still come were due (R455),
what the store holds if it is healthy, and whether the store is healthy (R405). -/
structure Env where
  now           : Nat
  edgeAt        : Nat
  byteAt        : Nat
  ppmDue        : Option Nat
  srxlDue       : Option Nat
  ppmCancelled  : Option Nat
  srxlCancelled : Option Nat
  stored        : Option (List Byte)
  storeHealthy  : Bool
deriving DecidableEq, Repr

/-- The environment at power-on: no alarm is scheduled, the tick counter and the store may hold anything (R552), and the
store is healthy or not for the whole run (R405). It delivers no capture from before power-on (log entry 12). -/
def Env.start (now : Nat) (stored : Option (List Byte)) (storeHealthy : Bool) : Env :=
  ⟨now, now, now, none, none, none, none, stored, storeHealthy⟩

/-- The operand `t` of an event captured at `captured`: the capture time modulo the range of a tick count (R575 duty 1). -/
def captureTicks (p : Params) (captured : Nat) : U16 := truncTicks p (BitVec.ofNat 16 captured)

/-- The duty on one capture: no earlier than the last capture of its own source, and `t` is its time (R575 duty 1). Captures
of different sources are not ordered (R515). DESIGN CHOICE (log entry 12): a capture is delivered at its time or later. -/
def captureInOrder (p : Params) (last : Nat) (m : Move) (t : U16) : Bool :=
  decide (last ≤ m.captured ∧ m.captured ≤ m.time ∧ t = captureTicks p m.captured)

/-- No alarm due before `time` is still owed (R575 duties 2 and 3). -/
def notOverdue (due : Option Nat) (time : Nat) : Bool :=
  match due with
  | some d => decide (time ≤ d)
  | none => true

/-- The alarm is asked for and its time has come (R575 duties 2 and 3). -/
def alarmDue (due : Option Nat) (time : Nat) : Bool :=
  match due with
  | some d => decide (d ≤ time)
  | none => false

/-- The answers the store's `load()` may give: what the store holds when it is healthy (R405, R420), and any value when it
is not (`93_implementation_defined.md` item 24). DESIGN CHOICE (log entry 12): a store is healthy for the whole run or not. -/
def Env.loadReturns (e : Env) (answer : Option (List Byte)) : Bool :=
  !e.storeHealthy || decide (answer = e.stored)

/-- The duties on one move (R575): capture times of each source in order (1), alarms on time, once, and never superseded
(2, 3), and CFG_LOAD with what `load()` returned (6). Events of different sources come in any order, whatever their capture
times (R515). DESIGN CHOICE (log entry 12): the times of delivery, of which the spec says nothing, never go back. DEDUCED
(log entry 12): an alarm that RESET cancelled may still be delivered (R455), and an ALARM word that stands for no arming,
which R510 calls harmless, is no move (R575, once per arming). -/
def Env.allows (p : Params) (e : Env) (m : Move) : Bool :=
  decide (e.now ≤ m.time) &&
    match m.instr with
    | .edge _ t => captureInOrder p e.edgeAt m t && notOverdue e.ppmDue m.captured
    | .uartByte _ t => captureInOrder p e.byteAt m t && notOverdue e.srxlDue m.captured
    | .alarmPpm => alarmDue e.ppmDue m.time || alarmDue e.ppmCancelled m.time
    | .alarmSrxl => alarmDue e.srxlDue m.time || alarmDue e.srxlCancelled m.time
    | .cfgLoad payload => e.loadReturns (payload.map (recordOperand p))
    | _ => true

/-- When the PPM alarm is due after a move that led to the state `s'`: a qualifying edge asks for it anew, and a state
with no alarm armed asks for none (R204, R531). -/
def Env.nextPpmDue (e : Env) (m : Move) (s s' : State) : Option Nat :=
  if s'.ppm.alarmArmed then
    match m.instr with
    | .edge r t => if ppmQualifies s.cfg r then some (m.captured + (ticksSub s.params s'.ppm.alarmAt t).toNat) else e.ppmDue
    | _ => e.ppmDue
  else none

/-- When the SRXL alarm is due after a move (R303, R531). -/
def Env.nextSrxlDue (e : Env) (m : Move) (s s' : State) : Option Nat :=
  if s'.srxl.alarmArmed then
    match m.instr with
    | .uartByte _ t => some (m.captured + (ticksSub s.params s'.srxl.alarmAt t).toNat)
    | _ => e.srxlDue
  else none

/-- The alarm that RESET cancelled and that may still come, after a move: RESET cancels the alarm that was owed (R455). It
comes at most once, and not behind a new arming, which supersedes it (R575 duties 2 and 3; log entry 12). -/
def nextCancelled (alarm : Instr) (m : Move) (due cancelled dueAfter : Option Nat) : Option Nat :=
  if m.instr = .reset then due.or cancelled
  else if m.instr = alarm ∨ dueAfter.isSome then none
  else cancelled

/-- The environment after a move from `s` to `s'`. What CFG_SAVE handed over last is stored byte for byte
(R575 duty 6). -/
def Env.after (e : Env) (m : Move) (s s' : State) : Env where
  now           := m.time
  edgeAt        := match m.instr with
    | .edge _ _ => m.captured
    | _ => e.edgeAt
  byteAt        := match m.instr with
    | .uartByte _ _ => m.captured
    | _ => e.byteAt
  ppmDue        := e.nextPpmDue m s s'
  srxlDue       := e.nextSrxlDue m s s'
  ppmCancelled  := nextCancelled .alarmPpm m e.ppmDue e.ppmCancelled (e.nextPpmDue m s s')
  srxlCancelled := nextCancelled .alarmSrxl m e.srxlDue e.srxlCancelled (e.nextSrxlDue m s s')
  stored        := if m.instr = .cfgSave then s'.store.getLast? else e.stored
  storeHealthy  := e.storeHealthy

/-- The runs of block and environment in which the environment keeps its duties. A move delivers an instruction; a word that
spells none is delivered by `illegal`, since no duty forbids one (R145, R460). -/
inductive TimedRun : Env → State → Env → State → Prop where
  | done (e : Env) (s : State) : TimedRun e s e s
  | move {e e' : Env} {s s' t : State} (m : Move) (allowed : e.allows s.params m = true)
      (fits : m.instr.WellFormed s.params) (runs : exec m.instr s = .next s') (rest : TimedRun (e.after m s s') s' e' t) :
      TimedRun e s e' t
  | illegal {e e' : Env} {s t : State} (w : Word) (time : Nat) (later : e.now ≤ time)
      (spellsNone : ∀ i, decodeOp w [] ≠ .ok i) (rest : TimedRun { e with now := time } (illegalWord s) e' t) :
      TimedRun e s e' t

end Sys2Proof.Machine
end

