-- ==== Sys2Proof/Safety.lean ====
section
/-! DEFINITION. What the states of a run look like: the invariants the spec states or derives (R32, R35, R44, R47, R54,
R57, R64, R67, R80, R85, R212, R306), when a run is finished (R580), and runs of whole instructions (R110, R120). -/

namespace Sys2Proof.Machine

/-- What always holds of `ppm` (R44, R47, R85, R90, R210, R212). The alarm is not armed in SD (R210). -/
structure Ppm.Inv (p : Params) (u : Ppm) : Prop where
  chIndex_zero : u.state ≠ .rd → u.chIndex = 0
  bank_size    : u.bank.Sized p.ppmMaxChannels
  chIndex_le   : u.chIndex.toNat ≤ p.ppmMaxChannels
  count_range  : u.count = 0 ∨ (p.ppmMinChannels ≤ u.count.toNat ∧ u.count.toNat ≤ p.ppmMaxChannels)
  timeout_le   : u.timeout.toNat ≤ p.ppmTimeoutTicks
  sd_unarmed   : u.state = .sd → u.alarmArmed = false
  count_live   : u.count ≠ 0 → u.receiving = true
  newData_live : u.newData = true → u.receiving = true
  idle_expired : u.receiving = false → u.timeout.toNat = p.ppmTimeoutTicks

/-- What always holds of `pcm` (R54, R57, R85, R90). -/
structure Pcm.Inv (p : Params) (u : Pcm) : Prop where
  counters_zero : u.state ≠ .rd → u.lastBits = 0 ∧ u.symInByte = 0 ∧ u.acc = 0 ∧ u.byteIndex = 0
  bank_size     : u.bank.Sized p.pcmBankSize
  byteIndex_le  : u.byteIndex.toNat ≤ p.pcmDataBytes
  symInByte_le  : u.symInByte.toNat ≤ 4
  trailer_syms  : u.byteIndex.toNat = p.pcmDataBytes → u.symInByte.toNat ≤ 1
  count_values  : u.count = 0 ∨ u.count = 8 ∨ u.count = 10
  timeout_le    : u.timeout.toNat ≤ p.pcmTimeoutTicks
  count_live    : u.count ≠ 0 → u.receiving = true
  newData_live  : u.newData = true → u.receiving = true
  idle_expired  : u.receiving = false → u.timeout.toNat = p.pcmTimeoutTicks

/-- What always holds of `srxl` (R64, R67, R85, R90, R306, R307). The alarm is not armed in SD (R307). -/
structure Srxl.Inv (p : Params) (u : Srxl) : Prop where
  counters_zero : u.state ≠ .rd → u.byteIndex = 0 ∧ u.expected = 0
  bank_size     : u.bank.Sized p.srxlBankSize
  frame_length  : u.state = .rd → u.expected = 27 ∨ u.expected = 35
  byteIndex_lt  : u.state = .rd → 1 ≤ u.byteIndex.toNat ∧ u.byteIndex.toNat < u.expected.toNat
  count_values  : u.count = 0 ∨ u.count = 12 ∨ u.count = 16
  timeout_le    : u.timeout.toNat ≤ p.srxlTimeoutTicks
  sd_unarmed    : u.state = .sd → u.alarmArmed = false
  count_live    : u.count ≠ 0 → u.receiving = true
  newData_live  : u.newData = true → u.receiving = true
  idle_expired  : u.receiving = false → u.timeout.toNat = p.srxlTimeoutTicks

/-- What always holds of `inp` (R80, R150): only the two forms that take a payload are waited for, and between
instructions the buffer is all 0. -/
structure Inp.Inv (p : Params) (u : Inp) : Prop where
  need_le   : u.need.toNat ≤ p.payloadWords
  buf_size  : u.buf.length = 4 * p.payloadWords
  waits_for : u.need ≠ 0 → u.op = 0x88000000 ∨ u.op = 0xA0000001
  idle_zero : u.need = 0 → u.buf = List.replicate (4 * p.payloadWords) 0

/-- The invariant of every run: an admitted parameter set, a legal configuration (R35, R403), and the invariants of the
units. -/
structure State.Inv (s : State) : Prop where
  admitted : s.params.Admitted
  legal    : s.cfg.Legal s.params
  ppm      : s.ppm.Inv s.params
  pcm      : s.pcm.Inv s.params
  srxl     : s.srxl.Inv s.params
  inp      : s.inp.Inv s.params

/-- A finished run: no word waits and no instruction is in progress (R580). -/
abbrev State.Finished (s : State) : Prop := s.input = [] ∧ s.inp.need = 0

/-- Between two instructions: the input assembler waits for nothing. -/
abbrev State.Idle (s : State) : Prop := s.inp.need = 0 ∧ s.inp.buf = List.replicate (4 * s.params.payloadWords) 0

/-- Some instructions one after the other, each a whole atomic step (R110, R120), stopping at the first that does not
answer a next state. -/
def execAll : List Instr → State → Host.Outcome State Fault Refusal
  | [], s => .next s
  | i :: is, s =>
    match exec i s with
    | .next t => execAll is t
    | .fault f => .fault f
    | .refused r => .refused r

end Sys2Proof.Machine
end

