-- ==== Sys2Proof/Certificates/Slice0/Obligations.lean ====
section
/-! DEFINITION. The statements for the provers. A frame is stated as an equation between whole states: what the record
update does not name is unchanged. Port words are spelled out in bits, and thresholds by the formulas of the rules. -/

open Sys2Proof Sys2Proof.Machine

namespace Sys2Proof.Claims

/-- EDGE answers a next state in which `ppm` is `u`, the PPM decoder emitted exactly `notes`, the words behind them are the
PCM decoder's (decoder field 2), and nothing else but `pcm` changed. -/
def EdgePpm (r : Bool) (t : U16) (s : State) (u : Ppm) (notes : List Word) : Prop :=
  ∃ (v : Pcm) (ns : List Word),
    exec (.edge r t) s = .next { s with ppm := u, pcm := v, notifications := s.notifications ++ notes ++ ns } ∧
    ∀ n ∈ ns, n.extractLsb' 24 2 = 2#2

/-- EDGE answers a next state in which `pcm` is `v`, the PCM decoder emitted exactly `notes`, the words before them are the
PPM decoder's (decoder field 1), and nothing else but `ppm` changed. -/
def EdgePcm (r : Bool) (t : U16) (s : State) (v : Pcm) (notes : List Word) : Prop :=
  ∃ (u : Ppm) (ns : List Word),
    exec (.edge r t) s = .next { s with ppm := u, pcm := v, notifications := s.notifications ++ ns ++ notes } ∧
    ∀ n ∈ ns, n.extractLsb' 24 2 = 1#2

/-- The edge qualifies for PPM: `r = 1 - cfg.flags[0]` (R202). -/
abbrev Qualifies (r : Bool) (s : State) : Prop := r = !s.cfg.flags.getLsbD 0

/-- A number of ticks as the block counts them: modulo `2 ^ TICK_BITS`, which is `mod 2^16` at the value of R10 (R11, R16).
At another `TICK_BITS` it is the model's reading of R10 (log entry 9). -/
abbrev tickCount (s : State) (n : Nat) : U16 := BitVec.ofNat 16 (n % 2 ^ s.params.tickBits)

/-- The PPM sync threshold in ticks (R11, R203). -/
abbrev syncTicks (s : State) : U16 := tickCount s (s.cfg.minSyncWidth.toNat * s.params.ticksPerUs)

/-- The gap of an edge at `t` behind the last edge that qualified for PPM (R204). -/
abbrev ppmGap (s : State) (t : U16) : U16 := tickCount s (t - s.ppm.lastEdge).toNat

/-- The gap of an edge at `t` behind the last edge of either polarity (R260). -/
abbrev pcmGap (s : State) (t : U16) : U16 := tickCount s (t - s.pcm.lastEdge).toNat

/-- The unit `ppm` after any qualifying edge at `t`, before its state's own rule (R204). -/
abbrev rearmed (s : State) (t : U16) : Ppm :=
  { s.ppm with
    lastEdge := tickCount s t.toNat, alarmAt := tickCount s (t + syncTicks s).toNat, alarmArmed := true }

/-- `ppm` published with `n` channels and its frame counter cleared (R211). -/
abbrev ppmPublished (u : Ppm) (n : BitVec 4) : Ppm :=
  { u with count := n, sel := !u.sel, newData := true, receiving := true, timeout := 0, chIndex := 0 }

/-- `new` is `old` with entry `i` of side `b` replaced by `v`, and every other entry of both sides as it was. -/
def ReplacesOne {α : Type} (old new : Banks α) (b : Bool) (i : Nat) (v : α) : Prop :=
  new.read b i = some v ∧ ∀ c j, (c, j) ≠ (b, i) → new.read c j = old.read c j

/-- The symbol a falling edge at `t` gives: how many of the seven boundaries its gap reaches (R250). -/
abbrev symbolAt (s : State) (t : U16) : Nat :=
  s.params.pcmCenterUs.toList.countP fun c =>
    decide (c + s.params.pcmGuardUs ≤ (pcmGap s t).toNat / s.params.ticksPerUs)

/-- A falling edge at `t` gives a symbol: no sync is pending and a sync has been seen (R260). -/
abbrev TakesSymbol (s : State) : Prop := s.pcm.syncPending = false ∧ s.pcm.state ≠ .wfs

/-- The symbol is one of the four that `lastBits` allows (R264). -/
abbrev ValidSymbol (s : State) (t : U16) : Prop :=
  3 ≤ symbolAt s t + s.pcm.lastBits.toNat ∧ symbolAt s t + s.pcm.lastBits.toNat ≤ 6

/-- The two bits a valid symbol recovers (R264). -/
abbrev bitsAt (s : State) (t : U16) : Nat := symbolAt s t + s.pcm.lastBits.toNat - 3

/-- The exclusive or of 3 and the four bit pairs of a byte (R266). -/
abbrev checkPair (b : Byte) : BitVec 2 :=
  3 ^^^ b.extractLsb' 6 2 ^^^ b.extractLsb' 4 2 ^^^ b.extractLsb' 2 2 ^^^ b.extractLsb' 0 2

/-- `pcm` after an error at `t` (R274). -/
abbrev pcmFailed (s : State) (t : U16) : Pcm :=
  { s.pcm with
    lastEdge := tickCount s t.toNat, lastBits := 0, symInByte := 0, acc := 0, byteIndex := 0, state := .wfs, count := 0 }

/-- `pcm` after a frame of `n` channels at `t`, with the bank `bk` (R272). -/
abbrev pcmAccepted (s : State) (t : U16) (n : BitVec 4) (bk : Banks Byte) : Pcm :=
  { s.pcm with
    lastEdge := tickCount s t.toNat, lastBits := 0, symInByte := 0, acc := 0, byteIndex := 0, state := .wfs,
    bank := bk, count := n, sel := !s.pcm.sel, newData := true, receiving := true, timeout := 0 }

/-- The bit pairs of a byte, most significant first, and its check pair: what a PCM frame sends for it (R265, R266). -/
def sentPairs (b : Byte) : List Nat :=
  [(b.extractLsb' 6 2).toNat, (b.extractLsb' 4 2).toNat, (b.extractLsb' 2 2).toNat, (b.extractLsb' 0 2).toNat,
    (checkPair b).toNat]

/-- The encoder's view of bit recovery: each symbol is its pair plus 3 minus the pair before it (R264). -/
def sentSymbols : Nat → List Nat → List Nat
  | _, [] => []
  | last, x :: xs => (x + 3 - last) :: sentSymbols x xs

/-- The symbols of a PCM frame: its data bytes, each with its check pair, and the two trailer pairs (R263 to R268). -/
def pcmFrameSymbols (bytes : List Byte) (trailer : BitVec 4) : List Nat :=
  sentSymbols 0
    (bytes.flatMap sentPairs ++ [(trailer.extractLsb' 2 2).toNat, (trailer.extractLsb' 0 2).toNat])

/-- The edges of a sequence of PCM cells, each a low phase and a high phase, from a falling edge at `t` (R161). -/
def pcmCells (p : Params) : U16 → List (U16 × U16) → List Instr
  | _, [] => []
  | t, (low, high) :: cs => (Line.pcmcell t low high).instrs p ++ pcmCells p (t + low + high) cs

/-- `srxl` after a byte at `t`, before its state's own rule (R303). -/
abbrev byteRearmed (s : State) (t : U16) : Srxl :=
  { s.srxl with
    alarmAt := tickCount s (t + tickCount s (s.params.srxlSyncTimeoutUs * s.params.ticksPerUs)).toNat,
    alarmArmed := true }

/-- The output of a pulse width by the formula of R360. -/
def outputOf (pw center range : Nat) (inverted : Bool) : Nat :=
  (min (max (Int.tdiv ((if inverted then -((pw : Int) - center) else (pw : Int) - center) * 128) range + 128) 0) 255).toNat

/-- What a TICK does to a unit: nothing at its limit, +1 below it, and the full reset and one notification on the tick that
reaches it (R213, R277, R316). -/
def TickOf {U : Type} (old : U) (timeout limit : Nat) (counted expired : U) (errorWord : Word)
    (new : U) (notes : List Word) : Prop :=
  (limit ≤ timeout → new = old ∧ notes = []) ∧
  (timeout + 1 < limit → new = counted ∧ notes = []) ∧
  (timeout + 1 = limit → new = expired ∧ notes = [errorWord])

/-- The ERROR words of one decoder number among some notifications (R148). -/
def errorsOf (d : BitVec 2) (ns : List Word) : Nat :=
  ns.countP fun n => decide (n.extractLsb' 28 4 = 3#4 ∧ n.extractLsb' 24 2 = d)

/-- How many words an instruction puts on the response port (R147). -/
def responseCount (p : Params) : Instr → Nat
  | .edge _ _ | .uartByte _ _ | .alarmPpm | .alarmSrxl | .tick => 0
  | .cfgRead => 1 + p.payloadWords
  | _ => 1

end Sys2Proof.Claims

open Sys2Proof.Claims

/-! ### Encoding -/

/-- Every well-formed instruction decodes to itself from its own words, whatever follows them. -/
def Obligations.DecodeOfEncodeIsIdentity : Prop :=
  ∀ (p : Params) (i : Instr) (rest : List Word), i.WellFormed p →
    decode p.payloadWords (encode i ++ rest) = .ok (i, rest)

/-- Whatever decodes is exactly the encoding of what it decodes to: every bit of the words is in the instruction. -/
def Obligations.EncodeOfDecodeIsIdentity : Prop :=
  ∀ (W : Nat) (ws rest : List Word) (i : Instr), decode W ws = .ok (i, rest) → encode i ++ rest = ws

/-- R144: a word spells a mnemonic exactly when it matches the mnemonic's row; the rows never overlap; a word that matches
no row is illegal. -/
def Obligations.OpcodeMapDecidesDecoding : Prop :=
  (∀ (w : Word) (payload : List Byte), ∀ row ∈ opcodeTable,
    (row.Matches w ↔ ∃ i, decodeOp w payload = .ok i ∧ i.mnemonic = row.mnemonic)) ∧
  (opcodeTable.Pairwise fun a b => ∀ w : Word, ¬ (a.Matches w ∧ b.Matches w)) ∧
  ∀ (w : Word) (payload : List Byte), (∀ row ∈ opcodeTable, ¬ row.Matches w) →
    decodeOp w payload = .error .reservedBitSet

/-- Some words the spec spells out decode to the instruction it says. -/
def Obligations.KnownWordsDecode : Prop :=
  decodeOp 0x08010BB8 [] = .ok (.edge true 3000) ∧ decodeOp 0x08000190 [] = .ok (.edge false 400) ∧
  decodeOp 0x10A20064 [] = .ok (.uartByte 0xA2 100) ∧ decodeOp 0x600000FF [] = .ok (.getOutput 255) ∧
  decodeOp 0x68000003 [] = .ok (.getDecoderStatus 3) ∧ decodeOp 0xA0000000 [] = .ok (.cfgLoad none) ∧
  decodeOp 0xF8000001 [] = .error .reservedBitSet

/-- R104: the image of a record has every field at its offset, low byte first, and image and record determine each
other. -/
def Obligations.RecordImageRoundTrip : Prop :=
  ∀ p : Params,
    (∀ c : CfgRecord, c.mapping.length = p.maxOutputChannels →
      decodeRecord p (encodeRecord c) = c ∧ (encodeRecord c).length = 14 + p.maxOutputChannels ∧
      encodeRecord c =
        [c.version.extractLsb' 0 8, c.version.extractLsb' 8 8, c.minSyncWidth.extractLsb' 0 8,
          c.minSyncWidth.extractLsb' 8 8, c.pulseWidthCenter.extractLsb' 0 8, c.pulseWidthCenter.extractLsb' 8 8,
          c.pulseWidthRange.extractLsb' 0 8, c.pulseWidthRange.extractLsb' 8 8, c.clockCorrection.extractLsb' 0 8,
          c.clockCorrection.extractLsb' 8 8, c.invertMask.extractLsb' 0 8, c.invertMask.extractLsb' 8 8, c.flags,
          c.reserved] ++ c.mapping) ∧
    ∀ r : List Byte, r.length = 14 + p.maxOutputChannels → encodeRecord (decodeRecord p r) = r

/-- R105: a record travels in `ceil(CONFIG_SIZE / 4)` words, byte `k` in bits `8 (k mod 4) + 7 : 8 (k mod 4)` of word
`k / 4`, in both directions; pad bytes are 0 on output and ignored on input. -/
def Obligations.PayloadWordsCarryRecordBytes : Prop :=
  (∀ (p : Params) (r : List Byte), r.length = p.configSize →
    (wordsOfBytes r).length = p.payloadWords ∧
    ∀ k < 4 * p.payloadWords,
      ((wordsOfBytes r).getD (k / 4) 0).extractLsb' (8 * (k % 4)) 8 = r.getD k 0) ∧
  (∀ (ws : List Word) (k : Nat), k < 4 * ws.length →
    (bytesOfWords ws).getD k 0 = (ws.getD (k / 4) 0).extractLsb' (8 * (k % 4)) 8) ∧
  ∀ (s : State) (r pad pad' : List Byte), r.length = s.params.configSize →
    exec (.cfgWrite (r ++ pad)) s = exec (.cfgWrite (r ++ pad')) s ∧
    exec (.cfgLoad (some (r ++ pad))) s = exec (.cfgLoad (some (r ++ pad'))) s

/-! ### Steps -/

/-- A step runs the decoded instruction: a one-word instruction on its word, and an instruction with a payload on its last
payload word. What the step adds is that the word leaves the input port and the input assembler is idle again. -/
def Obligations.StepRunsDecodedInstruction : Prop :=
  ∀ (s : State) (w : Word) (rest : List Word) (i : Instr), s.params.Admitted → s.input = w :: rest →
    (s.inp.need = 0 → payloadCount s.params.payloadWords w = 0 → decodeOp w [] = .ok i →
      step s = exec i { s with input := rest }) ∧
    (s.inp.need = 1 → decodeOp s.inp.op (s.inp.append s.params w) = .ok i →
      step s =
        exec i { s with
          input := rest,
          inp := ⟨0, s.inp.op, List.replicate (4 * s.params.payloadWords) 0⟩ })

/-- What a step does that completes no instruction: an opcode word with a payload and every payload word but the last only
move `inp` (R150); on an empty port the block idles between instructions and is stuck inside one (the model's reading of
R541, R580 and item 20 of `93_implementation_defined.md`, log entry 5). -/
def Obligations.StepBetweenInstructions : Prop :=
  ∀ s : State, s.params.Admitted →
    (∀ w rest, s.input = w :: rest → s.inp.need = 0 → w = 0x88000000 ∨ w = 0xA0000001 →
      step s =
        .next { s with
          input := rest,
          inp := { s.inp with op := w, need := BitVec.ofNat 8 s.params.payloadWords } }) ∧
    (∀ w rest, s.input = w :: rest → 2 ≤ s.inp.need.toNat →
      step s =
        .next { s with
          input := rest,
          inp := { s.inp with need := s.inp.need - 1, buf := s.inp.append s.params w } }) ∧
    (s.input = [] → s.inp.need = 0 → step s = .next s) ∧
    (s.input = [] → s.inp.need ≠ 0 → step s = .fault .inputEndsInsideInstruction)

/-- The words of a well-formed instruction, delivered to an idle block, run exactly that instruction, in as many steps as
it has words, with the payload assembled from the words; nothing else happens on the way. -/
def Obligations.DeliveredInstructionRunsWhole : Prop :=
  ∀ (s : State) (i : Instr) (rest : List Word), s.params.Admitted → s.Idle → i.WellFormed s.params →
    s.input = encode i ++ rest →
    Host.Core.run Sys2Proof.core (encode i).length s =
      exec i { s with
        input := rest,
        inp := { s.inp with op := if i.takesPayload then i.opcodeWord else s.inp.op } }

/-- R460: an illegal word and every reserved opcode answer ILLEGAL and report ILLEGAL_COMMAND, and no register changes. -/
def Obligations.IllegalWordsAreAnswered : Prop :=
  (∀ (s : State) (low : BitVec 27),
    ∀ i ∈ ([.reservedOp00 low, .reservedOp06 low, .reservedOp07 low, .reservedOp0F low, .reservedOp15 low,
      .reservedOp16 low, .reservedOp17 low, .reservedOp18 low, .reservedOp19 low, .reservedOp1A low,
      .reservedOp1B low, .reservedOp1C low, .reservedOp1D low, .reservedOp1E low] : List Instr),
      exec i s =
        .next { s with
          responses := s.responses ++ [0x01000000],
          notifications := s.notifications ++ [0x30410000] }) ∧
  ∀ (s : State) (w : Word) (rest : List Word), s.params.Admitted → s.inp.need = 0 → s.input = w :: rest →
    (∀ row ∈ opcodeTable, row.Matches w → row.mask = 0xF8000000) →
    step s =
      .next { s with
        input := rest,
        responses := s.responses ++ [0x01000000],
        notifications := s.notifications ++ [0x30410000] }

/-! ### The invariant -/

/-- Every step keeps the invariant of `Safety.lean`. -/
def Obligations.EveryStepKeepsInvariant : Prop :=
  ∀ s t : State, s.Inv → step s = .next t → t.Inv

/-- The reset state satisfies the invariant. -/
def Obligations.ResetStateSatisfiesInvariant : Prop := State.reset.Inv

/-- The power-on state of every admitted parameter set satisfies the invariant: in particular the defaults are a legal
configuration (R404). -/
def Obligations.PowerOnSatisfiesInvariant : Prop := ∀ p : Params, p.Admitted → (State.powerOn p).Inv

/-- From a state with the invariant a waiting word never stops the block: the index and division faults of the model are
never reached, and no step refuses (R500). That a step on an empty port between instructions answers a next state too is the
model's choice (log entry 5, its reading of R541: the block idles). -/
def Obligations.NoStepStopsTheBlock : Prop :=
  ∀ s : State, s.Inv → s.input ≠ [] ∨ s.inp.need = 0 → ∃ t, step s = .next t

/-- The output ports only grow, and no step changes the parameters. Both are the model's choice: the ports are lists that
nothing takes from (log entry 6, on R18, R120, R500 and R580), and the parameters of R10 are a constant field of State
(log entry 1). -/
def Obligations.PortsOnlyGrow : Prop :=
  ∀ s t : State, step s = .next t →
    t.params = s.params ∧ s.responses <+: t.responses ∧ s.notifications <+: t.notifications ∧ s.store <+: t.store

/-! ### EDGE and ALARM_PPM: the PPM decoder -/

/-- R202, R203: `PPM_INVERT` chooses the edges that qualify. Another edge has no effect on the PPM decoder; one that
qualifies is the last edge and re-arms the alarm one sync width after it, in every state. Tick values are modulo
`2^TICK_BITS`: the rules' 16 bits at R10, and at any other value log entry 9 (DEDUCED and DESIGN CHOICE). -/
def Obligations.PolarityChoosesQualifyingEdges : Prop :=
  ∀ (r : Bool) (t : U16) (s : State),
    (¬ Qualifies r s → EdgePpm r t s s.ppm []) ∧
    (Qualifies r s → ∃ u notes, EdgePpm r t s u notes ∧
      u.lastEdge = tickCount s t.toNat ∧ u.alarmAt = tickCount s (t + syncTicks s).toNat ∧ u.alarmArmed = true)

/-- R205, R206: outside a frame a qualifying edge measures nothing; in SyncDetected it starts the frame. Tick values
are modulo `2^TICK_BITS`: the rules' 16 bits at R10, and at any other value log entry 9 (DEDUCED and DESIGN CHOICE).
-/
def Obligations.EdgeOutsidePpmFrame : Prop :=
  ∀ (r : Bool) (t : U16) (s : State), Qualifies r s →
    (s.ppm.state = .wfs → EdgePpm r t s (rearmed s t) []) ∧
    (s.ppm.state = .sd → EdgePpm r t s { rearmed s t with state := .rd } [])

/-- R208: in a frame, a gap below the threshold is stored in the active bank at the channel index; once
`PPM_MAX_CHANNELS` channels are stored (9 at R10) it is dropped. Tick values are modulo `2^TICK_BITS`: the rules' 16
bits at R10, and at any other value log entry 9 (DEDUCED and DESIGN CHOICE). -/
def Obligations.ChannelGapIsRecorded : Prop :=
  ∀ (r : Bool) (t : U16) (s : State), Qualifies r s → s.ppm.state = .rd →
    (ppmGap s t).toNat < (syncTicks s).toNat →
    (s.ppm.chIndex.toNat < s.params.ppmMaxChannels → s.ppm.bank.Sized s.params.ppmMaxChannels →
      ∃ bk, ReplacesOne s.ppm.bank bk s.ppm.sel s.ppm.chIndex.toNat (ppmGap s t) ∧
        EdgePpm r t s { rearmed s t with bank := bk, chIndex := s.ppm.chIndex + 1 } []) ∧
    (s.params.ppmMaxChannels ≤ s.ppm.chIndex.toNat → EdgePpm r t s (rearmed s t) [])

/-- R207, R211: a gap at or above the threshold closes the frame and the edge starts the next one. With enough
channels the frame is published, with fewer it is dropped silently. Tick values are modulo `2^TICK_BITS`: the rules'
16 bits at R10, and at any other value log entry 9 (DEDUCED and DESIGN CHOICE). -/
def Obligations.SyncGapClosesPpmFrame : Prop :=
  ∀ (r : Bool) (t : U16) (s : State), Qualifies r s → s.ppm.state = .rd →
    (syncTicks s).toNat ≤ (ppmGap s t).toNat →
    (s.params.ppmMinChannels ≤ s.ppm.chIndex.toNat →
      EdgePpm r t s (ppmPublished (rearmed s t) s.ppm.chIndex)
        [0x2100#16 ++ s.ppm.chIndex.setWidth 16, 0x11000000]) ∧
    (s.ppm.chIndex.toNat < s.params.ppmMinChannels →
      EdgePpm r t s { rearmed s t with chIndex := 0 } [0x11000000])

/-- R201, R210: ALARM_PPM is ignored when no alarm is armed; armed, it fires once: it finds the sync in WFS, closes the
frame in RD, and changes nothing more in SD. -/
def Obligations.AlarmPpmFiresOnce : Prop :=
  ∀ s : State,
    (s.ppm.alarmArmed = false → exec .alarmPpm s = .next s) ∧
    (s.ppm.alarmArmed = true →
      (s.ppm.state = .wfs →
        exec .alarmPpm s =
          .next { s with
            ppm := { s.ppm with alarmArmed := false, state := .sd },
            notifications := s.notifications ++ [0x11000000] }) ∧
      (s.ppm.state = .sd → exec .alarmPpm s = .next { s with ppm := { s.ppm with alarmArmed := false } }) ∧
      (s.ppm.state = .rd → s.params.ppmMinChannels ≤ s.ppm.chIndex.toNat →
        exec .alarmPpm s =
          .next { s with
            ppm := { ppmPublished s.ppm s.ppm.chIndex with alarmArmed := false, state := .sd },
            notifications := s.notifications ++ [0x2100#16 ++ s.ppm.chIndex.setWidth 16, 0x11000000] }) ∧
      (s.ppm.state = .rd → s.ppm.chIndex.toNat < s.params.ppmMinChannels →
        exec .alarmPpm s =
          .next { s with
            ppm := { s.ppm with alarmArmed := false, state := .sd, chIndex := 0 },
            notifications := s.notifications ++ [0x11000000] }))

/-- R218 item 4: an edge due at the same tick as the alarm closes the frame alone, and the alarm followed by the edge
leaves the same `ppm` and the same PPM notifications. Tick values are modulo `2^TICK_BITS`: the rules' 16 bits at R10,
and at any other value log entry 9 (DEDUCED and DESIGN CHOICE). -/
def Obligations.EdgeAndAlarmAgreeInEitherOrder : Prop :=
  ∀ (r : Bool) (t : U16) (s : State), Qualifies r s → s.ppm.state = .rd → s.ppm.alarmArmed = true →
    (syncTicks s).toNat ≤ (ppmGap s t).toNat →
    ∃ a b, exec (.edge r t) s = .next a ∧ execAll [.alarmPpm, .edge r t] s = .next b ∧
      a = b ∧ a.ppm.state = .rd ∧ a.ppm.chIndex = 0

/-- A whole PPM frame of any length from `PPM_MIN_CHANNELS` on: the alarm publishes it, the count is the number of
gaps up to `PPM_MAX_CHANNELS`, and the stable bank holds each gap up to there exactly; every gap behind them is
dropped (R208, R218 item 6). Tick values are modulo `2^TICK_BITS`: the rules' 16 bits at R10, and at any other value
log entry 9 (DEDUCED and DESIGN CHOICE). -/
def Obligations.PpmFrameIsCapturedExactly : Prop :=
  ∀ (r : Bool) (s : State) (gaps : List U16), s.params.Admitted → s.ppm.bank.Sized s.params.ppmMaxChannels →
    Qualifies r s → s.ppm.state = .rd → s.ppm.chIndex = 0 → s.ppm.alarmArmed = true →
    s.params.ppmMinChannels ≤ min gaps.length s.params.ppmMaxChannels →
    (∀ w ∈ gaps, w.toNat < (syncTicks s).toNat) →
    ∃ t, execAll (trainEdges r s.ppm.lastEdge gaps ++ [.alarmPpm]) s = .next t ∧
      t.ppm.count.toNat = min gaps.length s.params.ppmMaxChannels ∧ t.ppm.sel = !s.ppm.sel ∧ t.ppm.state = .sd ∧ t.ppm.chIndex = 0 ∧
      t.ppm.newData = true ∧ t.ppm.receiving = true ∧ t.ppm.timeout = 0 ∧ t.cfg = s.cfg ∧ t.srxl = s.srxl ∧
      ∀ k (h : k < gaps.length), k < s.params.ppmMaxChannels → t.ppm.bank.read (!t.ppm.sel) k = some gaps[k]

/-! ### EDGE: the PCM decoder -/

/-- R260, R262: a rising edge decides `syncPending` and nothing more; a falling edge with a sync pending is the sync
in every state; any other falling edge in WFS is only the last edge. Tick values are modulo `2^TICK_BITS`: the rules'
16 bits at R10, and at any other value log entry 9 (DEDUCED and DESIGN CHOICE). -/
def Obligations.PcmEdgeWithoutSymbol : Prop :=
  ∀ (t : U16) (s : State),
    EdgePcm true t s
      { s.pcm with
        lastEdge := tickCount s t.toNat,
        syncPending := decide (s.params.pcmSyncMinUs ≤ (pcmGap s t).toNat / s.params.ticksPerUs) } [] ∧
    (s.pcm.syncPending = true →
      EdgePcm false t s
        { s.pcm with
          lastEdge := tickCount s t.toNat, syncPending := false, state := .sd, lastBits := 0, symInByte := 0, acc := 0,
          byteIndex := 0 }
        [0x12000000]) ∧
    (s.pcm.syncPending = false → s.pcm.state = .wfs → EdgePcm false t s { s.pcm with lastEdge := tickCount s t.toNat } [])

/-- R250: with increasing boundaries, the symbol of a gap is the number `k` whose window holds it: at or above boundary
`k - 1` and below boundary `k`. A gap on a boundary takes the higher symbol. -/
def Obligations.PcmSymbolIsItsWindow : Prop :=
  ∀ (p : Params) (gap : U16), p.Admitted →
    pcmClassify p gap ≤ 7 ∧
    (∀ k (h : k < 7), pcmClassify p gap ≤ k ↔ gap.toNat / p.ticksPerUs < p.pcmCenterUs[k] + p.pcmGuardUs) ∧
    ∀ k (h : k < 7), k < pcmClassify p gap ↔ p.pcmCenterUs[k] + p.pcmGuardUs ≤ gap.toNat / p.ticksPerUs

/-- R263, R264, R274: a symbol that `lastBits` does not allow is a desync: the counters and the count are zeroed, the
state is WFS, and bank, selector, flags and timeout are kept. Tick values are modulo `2^TICK_BITS`: the rules' 16 bits
at R10, and at any other value log entry 9 (DEDUCED and DESIGN CHOICE). -/
def Obligations.InvalidSymbolIsDesync : Prop :=
  ∀ (t : U16) (s : State), TakesSymbol s → ¬ ValidSymbol s t → EdgePcm false t s (pcmFailed s t) [0x32100000]

/-- R265: a valid symbol among the first four of a byte puts its two bits under those already there. Tick values are
modulo `2^TICK_BITS`: the rules' 16 bits at R10, and at any other value log entry 9 (DEDUCED and DESIGN CHOICE). -/
def Obligations.DataSymbolShiftsTwoBits : Prop :=
  ∀ (t : U16) (s : State), TakesSymbol s → ValidSymbol s t →
    s.pcm.byteIndex.toNat < s.params.pcmDataBytes → s.pcm.symInByte.toNat < 4 →
    EdgePcm false t s
      { s.pcm with
        lastEdge := tickCount s t.toNat, state := .rd, lastBits := BitVec.ofNat 2 (bitsAt s t),
        acc := BitVec.ofNat 8 (4 * s.pcm.acc.toNat + bitsAt s t), symInByte := s.pcm.symInByte + 1 } []

/-- R266, R274: the fifth symbol of a byte is its check pair. If it is the exclusive or of 3 and the byte's four
pairs, the byte enters the active bank; if not, the decoder reports PCM_CHECKSUM and drops the frame. Tick values are
modulo `2^TICK_BITS`: the rules' 16 bits at R10, and at any other value log entry 9 (DEDUCED and DESIGN CHOICE). -/
def Obligations.CheckSymbolGuardsTheByte : Prop :=
  ∀ (t : U16) (s : State), TakesSymbol s → ValidSymbol s t →
    s.pcm.byteIndex.toNat < s.params.pcmDataBytes → 4 ≤ s.pcm.symInByte.toNat →
    (bitsAt s t = (checkPair s.pcm.acc).toNat → s.params.Admitted → s.pcm.bank.Sized s.params.pcmBankSize →
      ∃ bk, ReplacesOne s.pcm.bank bk s.pcm.sel s.pcm.byteIndex.toNat s.pcm.acc ∧
        EdgePcm false t s
          { s.pcm with
            lastEdge := tickCount s t.toNat, state := .rd, lastBits := BitVec.ofNat 2 (bitsAt s t), bank := bk,
            byteIndex := s.pcm.byteIndex + 1, symInByte := 0, acc := 0 } []) ∧
    (bitsAt s t ≠ (checkPair s.pcm.acc).toNat → EdgePcm false t s (pcmFailed s t) [0x32110000])

/-- R268, R270, R272, R274: the first trailer symbol is kept; the second gives a 4-bit trailer. 0xC publishes 8
channels, 0x9 publishes 10 (with the bank `pcmRelocate` leaves, whose entries `ExtendedFrameRelocates` states), and
any value but 0xC and 0x9 is PCM_TRAILER. Tick values are modulo `2^TICK_BITS`: the rules' 16 bits at R10, and at any
other value log entry 9 (DEDUCED and DESIGN CHOICE). -/
def Obligations.TrailerEndsThePcmFrame : Prop :=
  ∀ (t : U16) (s : State), TakesSymbol s → ValidSymbol s t → s.params.pcmDataBytes ≤ s.pcm.byteIndex.toNat →
    (s.pcm.symInByte = 0 →
      EdgePcm false t s
        { s.pcm with
          lastEdge := tickCount s t.toNat, state := .rd, lastBits := BitVec.ofNat 2 (bitsAt s t),
          acc := BitVec.ofNat 8 (s.pcm.acc.toNat % 4 * 4 + bitsAt s t), symInByte := 1 } []) ∧
    (s.pcm.symInByte = 1 → s.pcm.acc.toNat % 4 * 4 + bitsAt s t = 0xC →
      EdgePcm false t s (pcmAccepted s t 8 s.pcm.bank) [0x22000008]) ∧
    (s.pcm.symInByte = 1 → s.pcm.acc.toNat % 4 * 4 + bitsAt s t = 0x9 →
      EdgePcm false t s (pcmAccepted s t 10 (pcmRelocate s.pcm).bank) [0x2200000A]) ∧
    (s.pcm.symInByte = 1 → s.pcm.acc.toNat % 4 * 4 + bitsAt s t ≠ 0xC → s.pcm.acc.toNat % 4 * 4 + bitsAt s t ≠ 0x9 →
      EdgePcm false t s (pcmFailed s t) [0x32120000])

/-- R273: a trailer 0x9 moves slots 6 and 7 of the active bank to 8 and 9, refills them from the stable bank, leaves
every other slot of both banks, and publishes 10 channels. Tick values are modulo `2^TICK_BITS`: the rules' 16 bits at
R10, and at any other value log entry 9 (DEDUCED and DESIGN CHOICE). -/
def Obligations.ExtendedFrameRelocates : Prop :=
  ∀ (t : U16) (s : State), s.params.Admitted → s.pcm.bank.Sized s.params.pcmBankSize → TakesSymbol s →
    ValidSymbol s t → s.params.pcmDataBytes ≤ s.pcm.byteIndex.toNat → s.pcm.symInByte = 1 →
    s.pcm.acc.toNat % 4 * 4 + bitsAt s t = 0x9 →
    ∃ bk : Banks Byte, EdgePcm false t s (pcmAccepted s t 10 bk) [0x2200000A] ∧
      bk.read s.pcm.sel 8 = s.pcm.bank.read s.pcm.sel 6 ∧ bk.read s.pcm.sel 9 = s.pcm.bank.read s.pcm.sel 7 ∧
      bk.read s.pcm.sel 6 = s.pcm.bank.read (!s.pcm.sel) 6 ∧ bk.read s.pcm.sel 7 = s.pcm.bank.read (!s.pcm.sel) 7 ∧
      ∀ b i, b ≠ s.pcm.sel ∨ i < 6 ∨ 10 ≤ i → bk.read b i = s.pcm.bank.read b i

/-- A whole PCM frame: any bytes, as many as a frame has (8 at R10), sent as the symbols of their pairs and check
pairs after a sync, with the trailer 0xC, are published byte for byte. Tick values are modulo `2^TICK_BITS`: the
rules' 16 bits at R10, and at any other value log entry 9 (DEDUCED and DESIGN CHOICE). -/
def Obligations.PcmFrameIsDecodedExactly : Prop :=
  ∀ (s : State) (bytes : List Byte) (cells : List (U16 × U16)), s.params.Admitted →
    s.pcm.bank.Sized s.params.pcmBankSize → bytes.length = s.params.pcmDataBytes →
    s.pcm.state = .sd → s.pcm.syncPending = false →
    s.pcm.lastBits = 0 → s.pcm.symInByte = 0 → s.pcm.acc = 0 → s.pcm.byteIndex = 0 →
    (∀ c ∈ cells, (tickCount s c.1.toNat).toNat / s.params.ticksPerUs < s.params.pcmSyncMinUs) →
    cells.map (fun c => pcmClassify s.params (tickCount s c.2.toNat)) = pcmFrameSymbols bytes 0xC →
    ∃ t, execAll (pcmCells s.params s.pcm.lastEdge cells) s = .next t ∧
      t.pcm.count = 8 ∧ t.pcm.sel = !s.pcm.sel ∧ t.pcm.newData = true ∧ t.pcm.receiving = true ∧
      t.pcm.timeout = 0 ∧ t.pcm.state = .wfs ∧ t.cfg = s.cfg ∧ t.srxl = s.srxl ∧
      ∀ k (h : k < bytes.length), t.pcm.bank.read (!t.pcm.sel) k = some bytes[k]

/-! ### UART_BYTE and ALARM_SRXL: the SRXL decoder -/

/-- R303: in WFS a byte only re-arms the alarm. Tick values are modulo `2^TICK_BITS`: the rules' 16 bits at R10, and
at any other value log entry 9 (DEDUCED and DESIGN CHOICE). -/
def Obligations.ByteWithoutSyncIsDropped : Prop :=
  ∀ (d : Byte) (t : U16) (s : State), s.srxl.state = .wfs →
    exec (.uartByte d t) s = .next { s with srxl := byteRearmed s t }

/-- R305: in SD the byte is the header. 0xA1 starts a 27-byte frame and 0xA2 a 35-byte frame, with the header stored
at index 0; any other byte is SRXL_HEADER (R314). Tick values are modulo `2^TICK_BITS`: the rules' 16 bits at R10, and
at any other value log entry 9 (DEDUCED and DESIGN CHOICE). -/
def Obligations.HeaderFixesFrameLength : Prop :=
  ∀ (d : Byte) (t : U16) (s : State), s.srxl.state = .sd →
    (s.params.Admitted → s.srxl.bank.Sized s.params.srxlBankSize → ∀ n : BitVec 6, (d = 0xA1 ∧ n = 27) ∨ (d = 0xA2 ∧ n = 35) →
      ∃ bk, ReplacesOne s.srxl.bank bk s.srxl.sel 0 d ∧
        exec (.uartByte d t) s =
          .next { s with srxl := { byteRearmed s t with expected := n, bank := bk, byteIndex := 1, state := .rd } }) ∧
    (d ≠ 0xA1 → d ≠ 0xA2 →
      exec (.uartByte d t) s =
        .next { s with
          srxl := { byteRearmed s t with byteIndex := 0, expected := 0, state := .wfs },
          notifications := s.notifications ++ [0x33200000] })

/-- R306: in RD a byte that is not the frame's last is stored in the active bank at the byte index. Tick values are
modulo `2^TICK_BITS`: the rules' 16 bits at R10, and at any other value log entry 9 (DEDUCED and DESIGN CHOICE). -/
def Obligations.FrameByteIsStored : Prop :=
  ∀ (d : Byte) (t : U16) (s : State), s.srxl.state = .rd →
    s.srxl.bank.Sized s.params.srxlBankSize → s.srxl.byteIndex.toNat < s.params.srxlBankSize →
    s.srxl.byteIndex + 1 ≠ s.srxl.expected →
    ∃ bk, ReplacesOne s.srxl.bank bk s.srxl.sel s.srxl.byteIndex.toNat d ∧
      exec (.uartByte d t) s =
        .next { s with srxl := { byteRearmed s t with bank := bk, byteIndex := s.srxl.byteIndex + 1 } }

/-- R311, R312, R314: the last byte of a frame. If the CRC over all bytes but the last two equals those two, high byte
first, the frame is published with 12 or 16 channels; if not, SRXL_CRC, and count, selector and flags are kept. Tick
values are modulo `2^TICK_BITS`: the rules' 16 bits at R10, and at any other value log entry 9 (DEDUCED and DESIGN
CHOICE). -/
def Obligations.LastByteChecksTheCrc : Prop :=
  ∀ (d hi : Byte) (t : U16) (s : State) (len : Nat), s.params.Admitted →
    s.srxl.bank.Sized s.params.srxlBankSize → s.srxl.state = .rd →
    (len = 27 ∨ len = 35) → s.srxl.expected = BitVec.ofNat 6 len → s.srxl.byteIndex = BitVec.ofNat 6 (len - 1) →
    s.srxl.bank.read s.srxl.sel (len - 2) = some hi →
    ∃ bk, ReplacesOne s.srxl.bank bk s.srxl.sel (len - 1) d ∧
      (crc16 ((s.srxl.bank.side s.srxl.sel).take (len - 2)) = hi ++ d →
        exec (.uartByte d t) s =
          .next { s with
            srxl := { byteRearmed s t with
              bank := bk, byteIndex := 0, expected := 0, state := .wfs, count := if len = 27 then 12 else 16,
              sel := !s.srxl.sel, newData := true, receiving := true, timeout := 0 },
            notifications := s.notifications ++ [if len = 27 then 0x2300000C else 0x23000010] }) ∧
      (crc16 ((s.srxl.bank.side s.srxl.sel).take (len - 2)) ≠ hi ++ d →
        exec (.uartByte d t) s =
          .next { s with
            srxl := { byteRearmed s t with bank := bk, byteIndex := 0, expected := 0, state := .wfs },
            notifications := s.notifications ++ [0x33210000] })

/-- R301, R307: ALARM_SRXL is ignored when no alarm is armed; armed, it finds the sync in WFS, and in RD it reports
SRXL_SYNC_LOST, drops the partial frame and finds the sync. -/
def Obligations.AlarmSrxlFiresOnce : Prop :=
  ∀ s : State,
    (s.srxl.alarmArmed = false → exec .alarmSrxl s = .next s) ∧
    (s.srxl.alarmArmed = true →
      (s.srxl.state = .wfs →
        exec .alarmSrxl s =
          .next { s with
            srxl := { s.srxl with alarmArmed := false, state := .sd },
            notifications := s.notifications ++ [0x13000000] }) ∧
      (s.srxl.state = .sd → exec .alarmSrxl s = .next { s with srxl := { s.srxl with alarmArmed := false } }) ∧
      (s.srxl.state = .rd →
        exec .alarmSrxl s =
          .next { s with
            srxl := { s.srxl with alarmArmed := false, state := .sd, byteIndex := 0, expected := 0 },
            notifications := s.notifications ++ [0x33220000, 0x13000000] }))

/-- A whole SRXL frame from SD: with the right CRC it is published and the stable bank holds its bytes; with any other
CRC it is refused, and count, selector and flags stay as they were. Tick values are modulo `2^TICK_BITS`: the rules'
16 bits at R10, and at any other value log entry 9 (DEDUCED and DESIGN CHOICE). -/
def Obligations.SrxlFrameIsDecodedExactly : Prop :=
  ∀ (s : State) (header hi lo : Byte) (body : List Byte) (t0 dt : U16), s.params.Admitted →
    s.srxl.bank.Sized s.params.srxlBankSize → s.srxl.state = .sd →
    (header = 0xA1 ∧ body.length = 24) ∨ (header = 0xA2 ∧ body.length = 32) →
    ∃ t, execAll (frameBytes dt t0 (header :: body ++ [hi, lo])) s = .next t ∧
      t.srxl.state = .wfs ∧ t.ppm = s.ppm ∧ t.pcm = s.pcm ∧ t.cfg = s.cfg ∧
      (crc16 (header :: body) = hi ++ lo →
        t.srxl.count = (if header = 0xA1 then 12 else 16) ∧ t.srxl.sel = !s.srxl.sel ∧
        t.srxl.newData = true ∧ t.srxl.receiving = true ∧ t.srxl.timeout = 0 ∧
        ∀ k (h : k < (header :: body ++ [hi, lo]).length),
          t.srxl.bank.read (!t.srxl.sel) k = some (header :: body ++ [hi, lo])[k]) ∧
      (crc16 (header :: body) ≠ hi ++ lo →
        t.srxl.count = s.srxl.count ∧ t.srxl.sel = s.srxl.sel ∧ t.srxl.newData = s.srxl.newData ∧
        t.srxl.receiving = s.srxl.receiving ∧ t.srxl.timeout = s.srxl.timeout ∧
        t.notifications = s.notifications ++ [0x33210000])

/-- An error confined to one byte of a message, a single flipped bit among them, changes its CRC (R325 item 4). -/
def Obligations.CrcDetectsOneByteErrors : Prop :=
  ∀ (before behind : List Byte) (b b' : Byte), b ≠ b' →
    crc16 (before ++ b :: behind) ≠ crc16 (before ++ b' :: behind)

/-- A message followed by its own CRC, high byte first, has the CRC 0: the polynomial, the bit order and the missing final
exclusive or of R310 together. -/
def Obligations.CrcOfMessageWithCrcIsZero : Prop :=
  ∀ bytes : List Byte,
    crc16 (bytes ++ [(crc16 bytes).extractLsb' 8 8, (crc16 bytes).extractLsb' 0 8]) = 0

/-! ### The aggregator -/

/-- R350, R356: with `SOURCE_SELECT = FIXED`, UPDATE selects the first receiving decoder in the order PPM, PCM, SRXL,
remembers the receiving flags, and responds with the source. -/
def Obligations.UpdateSelectsByFixedPriority : Prop :=
  ∀ s : State, s.params.sourceSelect = .fixed →
    ∀ src : Source,
      src = (if s.ppm.receiving then .ppm else if s.pcm.receiving then .pcm else if s.srxl.receiving then .srxl else .none) →
      exec .update s =
        .next { s with
          agg := ⟨src, BitVec.ofBool s.srxl.receiving ++ BitVec.ofBool s.pcm.receiving ++ BitVec.ofBool s.ppm.receiving⟩,
          responses := s.responses ++ [src.code.setWidth 32] }

/-- R350, R357: with `SOURCE_SELECT = LAST_RECEIVING`, a decoder that began to receive since the last UPDATE wins, by fixed
priority among several; else the current source stays while it receives; else fixed priority decides. -/
def Obligations.UpdateSelectsLastReceiving : Prop :=
  ∀ s : State, s.params.sourceSelect = .lastReceiving →
    ∀ src : Source,
      src =
        (if s.ppm.receiving && !s.agg.prevReceiving.getLsbD 0 then .ppm
        else if s.pcm.receiving && !s.agg.prevReceiving.getLsbD 1 then .pcm
        else if s.srxl.receiving && !s.agg.prevReceiving.getLsbD 2 then .srxl
        else if s.agg.source = .ppm ∧ s.ppm.receiving = true then .ppm
        else if s.agg.source = .pcm ∧ s.pcm.receiving = true then .pcm
        else if s.agg.source = .srxl ∧ s.srxl.receiving = true then .srxl
        else if s.ppm.receiving then .ppm else if s.pcm.receiving then .pcm else if s.srxl.receiving then .srxl
        else .none) →
      exec .update s =
        .next { s with
          agg := ⟨src, BitVec.ofBool s.srxl.receiving ++ BitVec.ofBool s.pcm.receiving ++ BitVec.ofBool s.ppm.receiving⟩,
          responses := s.responses ++ [src.code.setWidth 32] }

/-- R351, R352, R358: GET_SOURCE responds with the held source and GET_COUNT with the live count of its decoder, 0 with no
source. Neither changes anything else. -/
def Obligations.GetSourceAndCountRespond : Prop :=
  ∀ s : State,
    exec .getSource s = .next { s with responses := s.responses ++ [s.agg.source.code.setWidth 32] } ∧
    (s.agg.source = .none → exec .getCount s = .next { s with responses := s.responses ++ [0x00000000] }) ∧
    (s.agg.source = .ppm →
      exec .getCount s = .next { s with responses := s.responses ++ [s.ppm.count.setWidth 32] }) ∧
    (s.agg.source = .pcm →
      exec .getCount s = .next { s with responses := s.responses ++ [s.pcm.count.setWidth 32] }) ∧
    (s.agg.source = .srxl →
      exec .getCount s = .next { s with responses := s.responses ++ [s.srxl.count.setWidth 32] })

/-- R353, R362, R364, R280, R320: GET_INPUT responds RANGE with no source or beyond the count; otherwise with the width in
µs of the stable bank's entry, by the formula of its protocol, saturated at 0xFFFF. -/
def Obligations.GetInputRespondsMicroseconds : Prop :=
  ∀ (i : Byte) (s : State),
    (s.agg.source = .none → exec (.getInput i) s = .next { s with responses := s.responses ++ [0x02000000] }) ∧
    (s.agg.source = .ppm →
      (s.ppm.count.toNat ≤ i.toNat → exec (.getInput i) s = .next { s with responses := s.responses ++ [0x02000000] }) ∧
      ∀ w, i.toNat < s.ppm.count.toNat → s.ppm.bank.read (!s.ppm.sel) i.toNat = some w →
        exec (.getInput i) s =
          .next { s with
            responses := s.responses ++
              [BitVec.ofNat 32
                (min (2 * (w.toNat / s.params.ticksPerUs) * s.cfg.clockCorrection.toNat / 65536) 0xFFFF)] }) ∧
    (s.agg.source = .pcm →
      (s.pcm.count.toNat ≤ i.toNat → exec (.getInput i) s = .next { s with responses := s.responses ++ [0x02000000] }) ∧
      ∀ v, i.toNat < s.pcm.count.toNat → s.pcm.bank.read (!s.pcm.sel) i.toNat = some v →
        exec (.getInput i) s =
          .next { s with responses := s.responses ++ [BitVec.ofNat 32 (1050 + 138 * v.toNat / 32)] }) ∧
    (s.agg.source = .srxl →
      (s.srxl.count.toNat ≤ i.toNat → exec (.getInput i) s = .next { s with responses := s.responses ++ [0x02000000] }) ∧
      ∀ hi lo, i.toNat < s.srxl.count.toNat → s.srxl.bank.read (!s.srxl.sel) (1 + 2 * i.toNat) = some hi →
        s.srxl.bank.read (!s.srxl.sel) (2 + 2 * i.toNat) = some lo →
        exec (.getInput i) s =
          .next { s with
            responses := s.responses ++
              [BitVec.ofNat 32 (800 + (hi.toNat % 16 * 256 + lo.toNat) * 1400 / 4096)] })

/-- R354, R360: GET_OUTPUT responds RANGE beyond the outputs, the neutral 128 for an unmapped output, no source or a
mapping beyond the count, and otherwise the scaled, possibly inverted, saturated width of the mapped channel. -/
def Obligations.GetOutputRespondsScaledValue : Prop :=
  ∀ (o : Byte) (s : State),
    (s.params.maxOutputChannels ≤ o.toNat →
      exec (.getOutput o) s = .next { s with responses := s.responses ++ [0x02000000] }) ∧
    ∀ m, o.toNat < s.params.maxOutputChannels → s.cfg.mapping[o.toNat]? = some m →
      (m = 0 ∨ s.agg.source = .none ∨ aggCount s ≤ m.toNat - 1 →
        exec (.getOutput o) s = .next { s with responses := s.responses ++ [0x00000080] }) ∧
      ∀ pw, m ≠ 0 → s.agg.source ≠ .none → m.toNat - 1 < aggCount s → s.cfg.pulseWidthRange ≠ 0 →
        aggInputUs s (m.toNat - 1) = .ok pw →
        exec (.getOutput o) s =
          .next { s with
            responses := s.responses ++
              [BitVec.ofNat 32
                (outputOf pw s.cfg.pulseWidthCenter.toNat s.cfg.pulseWidthRange.toNat
                  (s.cfg.invertMask.getLsbD o.toNat))] }

/-- R371, R372: GET_DECODER_STATUS packs count, newData, receiving and state of the decoder `k`; CLEAR_NEW_DATA clears its
flag and nothing else; `k = 0` is RANGE for both. -/
def Obligations.DecoderStatusAndClear : Prop :=
  ∀ s : State,
    exec (.getDecoderStatus 0) s = .next { s with responses := s.responses ++ [0x02000000] } ∧
    exec (.clearNewData 0) s = .next { s with responses := s.responses ++ [0x02000000] } ∧
    (∀ (k : BitVec 2) (count : Nat) (newData receiving : Bool) (st : DecoderState),
      (k = 1 ∧ count = s.ppm.count.toNat ∧ newData = s.ppm.newData ∧ receiving = s.ppm.receiving ∧ st = s.ppm.state) ∨
      (k = 2 ∧ count = s.pcm.count.toNat ∧ newData = s.pcm.newData ∧ receiving = s.pcm.receiving ∧ st = s.pcm.state) ∨
      (k = 3 ∧ count = s.srxl.count.toNat ∧ newData = s.srxl.newData ∧ receiving = s.srxl.receiving ∧ st = s.srxl.state) →
      exec (.getDecoderStatus k) s =
        .next { s with
          responses := s.responses ++
            [BitVec.ofNat 32 (count * 256 + newData.toNat * 8 + receiving.toNat * 4 + st.code.toNat)] }) ∧
    exec (.clearNewData 1) s =
      .next { s with ppm := { s.ppm with newData := false }, responses := s.responses ++ [0x00000000] } ∧
    exec (.clearNewData 2) s =
      .next { s with pcm := { s.pcm with newData := false }, responses := s.responses ++ [0x00000000] } ∧
    exec (.clearNewData 3) s =
      .next { s with srxl := { s.srxl with newData := false }, responses := s.responses ++ [0x00000000] }

/-- R112: the six reads change no state, and repeating one with no other word between responds the same. -/
def Obligations.ReadsChangeNoState : Prop :=
  ∀ (i : Instr) (s t : State),
    (i = .getSource ∨ i = .getCount ∨ (∃ x, i = .getInput x) ∨ (∃ x, i = .getOutput x) ∨
      (∃ k, i = .getDecoderStatus k) ∨ i = .cfgRead) →
    exec i s = .next t →
    ∃ words, t = { s with responses := s.responses ++ words } ∧
      exec i t = .next { s with responses := s.responses ++ words ++ words }

/-! ### The configuration -/

/-- R410, R413: CFG_READ responds OK and then the record in payload words; CFG_SAVE hands the record to the store and
responds OK. Neither changes a register. -/
def Obligations.CfgReadAndSaveHandOutTheRecord : Prop :=
  ∀ s : State,
    exec .cfgRead s = .next { s with responses := s.responses ++ 0x00000000 :: wordsOfBytes (encodeRecord s.cfg) } ∧
    exec .cfgSave s =
      .next { s with store := s.store ++ [encodeRecord s.cfg], responses := s.responses ++ [0x00000000] }

/-- R411: CFG_WRITE applies a valid record whole, and refuses any other, with `cfg` unchanged and a CONFIG_INVALID error. -/
def Obligations.CfgWriteValidates : Prop :=
  ∀ (payload : List Byte) (s : State),
    (cfgValid s.params (payload.take s.params.configSize) = true →
      exec (.cfgWrite payload) s =
        .next { s with
          cfg := decodeRecord s.params (payload.take s.params.configSize), responses := s.responses ++ [0x00000000] }) ∧
    (cfgValid s.params (payload.take s.params.configSize) = false →
      exec (.cfgWrite payload) s =
        .next { s with
          responses := s.responses ++ [0x03000000], notifications := s.notifications ++ [0x30400000] })

/-- R412, R414: CFG_DEFAULT applies the defaults; CFG_LOAD applies a valid stored record whole, and the defaults for none or
an invalid one, which it also reports. -/
def Obligations.CfgDefaultAndLoadApply : Prop :=
  ∀ (payload : List Byte) (s : State),
    exec .cfgDefault s = .next { s with cfg := cfgDefaults s.params, responses := s.responses ++ [0x00000000] } ∧
    exec (.cfgLoad none) s = .next { s with cfg := cfgDefaults s.params, responses := s.responses ++ [0x00000000] } ∧
    (cfgValid s.params (payload.take s.params.configSize) = true →
      exec (.cfgLoad (some payload)) s =
        .next { s with
          cfg := decodeRecord s.params (payload.take s.params.configSize), responses := s.responses ++ [0x00000000] }) ∧
    (cfgValid s.params (payload.take s.params.configSize) = false →
      exec (.cfgLoad (some payload)) s =
        .next { s with
          cfg := cfgDefaults s.params, responses := s.responses ++ [0x03000000],
          notifications := s.notifications ++ [0x30400000] })

/-- R400: a record is valid exactly when the version matches, the three bounded fields of its image lie within their bounds
(little-endian at offsets 2, 4 and 6), and every mapping byte is at most `MAX_INPUT_CHANNELS`. -/
def Obligations.ValidationChecksTheImage : Prop :=
  ∀ (p : Params) (r : List Byte), r.length = p.configSize →
    (cfgValid p r = true ↔
      ∀ field : Nat → Nat, (∀ k, field k = (r.getD k 0).toNat + 256 * (r.getD (k + 1) 0).toNat) →
        field 0 = p.configVersion ∧ (p.minSyncLo ≤ field 2 ∧ field 2 ≤ p.minSyncHi) ∧
        (p.centerLo ≤ field 4 ∧ field 4 ≤ p.centerHi) ∧ (p.rangeLo ≤ field 6 ∧ field 6 ≤ p.rangeHi) ∧
        ∀ o < p.maxOutputChannels, (r.getD (14 + o) 0).toNat ≤ p.maxInputChannels)

/-- R420: a valid record written, then read, comes back exactly in the payload words; saved, it is handed to the store; and
loaded from there, in any later state of the block whatever `cfg` holds by then, it restores the same configuration. -/
def Obligations.ConfigurationRoundTrips : Prop :=
  ∀ (r pad : List Byte) (s : State), r.length = s.params.configSize → cfgValid s.params r = true →
    ∃ a b c,
      exec (.cfgWrite (r ++ pad)) s = .next a ∧
      exec .cfgRead a = .next b ∧ b.responses = a.responses ++ 0x00000000 :: wordsOfBytes r ∧
      exec .cfgSave b = .next c ∧ c.store = s.store ++ [r] ∧
      ∀ e : State, e.params = s.params →
        ∃ d, exec (.cfgLoad (some (r ++ pad))) e = .next d ∧ d.cfg = a.cfg

/-- R403: only CFG_WRITE, CFG_LOAD, CFG_DEFAULT and RESET write `cfg`, and each writes a record that passed validation or
the defaults. -/
def Obligations.OnlyConfigurationWordsWriteCfg : Prop :=
  ∀ (i : Instr) (s t : State), exec i s = .next t →
    t.cfg = s.cfg ∨
    (((∃ x, i = .cfgWrite x) ∨ (∃ x, i = .cfgLoad x) ∨ i = .cfgDefault ∨ i = .reset) ∧
      (t.cfg = cfgDefaults s.params ∨ ∃ r, cfgValid s.params r = true ∧ t.cfg = decodeRecord s.params r))

/-! ### TICK, RESET and rules of the whole machine -/

/-- R450, R213, R215, R277, R275, R316, R315: TICK counts the three timeout counters, PPM then PCM then SRXL. A counter that
reaches its limit resets its decoder and emits one TIMEOUT error; a counter at its limit does nothing. -/
def Obligations.TickCountsAndExpires : Prop :=
  ∀ s : State, s.params.ppmTimeoutTicks < 256 → s.params.pcmTimeoutTicks < 256 → s.params.srxlTimeoutTicks < 256 →
    ∃ (u : Ppm) (v : Pcm) (w : Srxl) (n1 n2 n3 : List Word),
      exec .tick s =
        .next { s with ppm := u, pcm := v, srxl := w, notifications := s.notifications ++ n1 ++ n2 ++ n3 } ∧
      TickOf s.ppm s.ppm.timeout.toNat s.params.ppmTimeoutTicks
        { s.ppm with timeout := s.ppm.timeout + 1 }
        { s.ppm with
          timeout := s.ppm.timeout + 1, state := .wfs, chIndex := 0, count := 0, newData := false, receiving := false }
        0x31300000 u n1 ∧
      TickOf s.pcm s.pcm.timeout.toNat s.params.pcmTimeoutTicks
        { s.pcm with timeout := s.pcm.timeout + 1 }
        { s.pcm with
          timeout := s.pcm.timeout + 1, state := .wfs, lastBits := 0, symInByte := 0, acc := 0, byteIndex := 0,
          syncPending := false, count := 0, newData := false, receiving := false }
        0x32300000 v n2 ∧
      TickOf s.srxl s.srxl.timeout.toNat s.params.srxlTimeoutTicks
        { s.srxl with timeout := s.srxl.timeout + 1 }
        { s.srxl with
          timeout := s.srxl.timeout + 1, state := .wfs, byteIndex := 0, expected := 0, count := 0, newData := false,
          receiving := false }
        0x33300000 w n3

/-- R455, R550: RESET puts every register of every unit, the input assembler among them, at its power-on value and appends
one OK response word. That the ports keep what they hold besides, and the parameters stay, is the model's choice (log
entries 1 and 6); that `inp` is reset too is R550 and D29 read against R80 (log entry 6). -/
def Obligations.ResetRestoresEveryUnit : Prop :=
  ∀ s : State,
    exec .reset s =
      .next { State.powerOn s.params with
        input := s.input, responses := s.responses ++ [0x00000000], notifications := s.notifications, store := s.store }

/-- R147: each command puts exactly one response word on the port, CFG_READ `W` payload words more, and an event none. -/
def Obligations.OneResponsePerCommand : Prop :=
  ∀ (i : Instr) (s t : State), s.cfg.mapping.length = s.params.maxOutputChannels → exec i s = .next t →
    ∃ words, t.responses = s.responses ++ words ∧ words.length = responseCount s.params i

/-- R502: an instruction emits at most one ERROR for each decoder number, the block's own number 0 among them. -/
def Obligations.AtMostOneErrorPerDecoder : Prop :=
  ∀ (i : Instr) (s t : State), exec i s = .next t →
    ∃ ns, t.notifications = s.notifications ++ ns ∧ ∀ d, errorsOf d ns ≤ 1

/-- R90: no instruction but RESET writes the stable bank of a decoder. -/
def Obligations.StableBanksAreNeverWritten : Prop :=
  ∀ (i : Instr) (s t : State), i ≠ .reset → exec i s = .next t →
    t.ppm.bank.side (!s.ppm.sel) = s.ppm.bank.side (!s.ppm.sel) ∧
    t.pcm.bank.side (!s.pcm.sel) = s.pcm.bank.side (!s.pcm.sel) ∧
    t.srxl.bank.side (!s.srxl.sel) = s.srxl.bank.side (!s.srxl.sel)

/-- R121: a bank flips only together with the whole publication of a frame, with a legal count (R44, R54, R64), and a nonzero
count changes only so. The upper bound of the PPM count rests on the invariant `chIndex <= PPM_MAX_CHANNELS` (R212,
`State.Inv`). -/
def Obligations.FlipIsPublication : Prop :=
  ∀ (i : Instr) (s t : State), i ≠ .reset → exec i s = .next t →
    (t.ppm.sel ≠ s.ppm.sel →
      t.ppm.newData = true ∧ t.ppm.receiving = true ∧ t.ppm.timeout = 0 ∧
        s.params.ppmMinChannels ≤ t.ppm.count.toNat ∧
        (s.ppm.chIndex.toNat ≤ s.params.ppmMaxChannels → t.ppm.count.toNat ≤ s.params.ppmMaxChannels)) ∧
    (t.pcm.sel ≠ s.pcm.sel →
      t.pcm.newData = true ∧ t.pcm.receiving = true ∧ t.pcm.timeout = 0 ∧ (t.pcm.count = 8 ∨ t.pcm.count = 10)) ∧
    (t.srxl.sel ≠ s.srxl.sel →
      t.srxl.newData = true ∧ t.srxl.receiving = true ∧ t.srxl.timeout = 0 ∧ (t.srxl.count = 12 ∨ t.srxl.count = 16)) ∧
    (t.ppm.count ≠ s.ppm.count → t.ppm.count = 0 ∨ t.ppm.sel ≠ s.ppm.sel) ∧
    (t.pcm.count ≠ s.pcm.count → t.pcm.count = 0 ∨ t.pcm.sel ≠ s.pcm.sel) ∧
    (t.srxl.count ≠ s.srxl.count → t.srxl.count = 0 ∨ t.srxl.sel ≠ s.srxl.sel)

/-- R30: each unit is written only by the instructions of its owner, and RESET writes every unit. CLEAR_NEW_DATA clears the
flag of one decoder on the consumer's behalf. No instruction but RESET writes the input assembler: R80, with RESET resetting
it by R550 (log entry 6). That no instruction touches the input port or the parameters is the model's choice (log entries 4
and 1). -/
def Obligations.UnitsAreWrittenByTheirOwners : Prop :=
  ∀ (i : Instr) (s t : State), exec i s = .next t →
    (t.ppm ≠ s.ppm → (∃ r x, i = .edge r x) ∨ i = .alarmPpm ∨ i = .tick ∨ i = .clearNewData 1 ∨ i = .reset) ∧
    (t.pcm ≠ s.pcm → (∃ r x, i = .edge r x) ∨ i = .tick ∨ i = .clearNewData 2 ∨ i = .reset) ∧
    (t.srxl ≠ s.srxl → (∃ d x, i = .uartByte d x) ∨ i = .alarmSrxl ∨ i = .tick ∨ i = .clearNewData 3 ∨ i = .reset) ∧
    (t.agg ≠ s.agg → i = .update ∨ i = .reset) ∧
    (t.cfg ≠ s.cfg → (∃ x, i = .cfgWrite x) ∨ (∃ x, i = .cfgLoad x) ∨ i = .cfgDefault ∨ i = .reset) ∧
    (t.inp ≠ s.inp → i = .reset) ∧ t.input = s.input ∧ t.params = s.params

/-- A silent PPM decoder ages out: below the limit TICK words only count, and the tick that reaches the limit makes the
source "not receiving", with one TIMEOUT error in all from it. -/
def Obligations.SilentPpmDecoderAgesOut : Prop :=
  ∀ (s : State) (n : Nat), s.params.ppmTimeoutTicks < 256 →
    (s.ppm.timeout.toNat + n < s.params.ppmTimeoutTicks →
      ∃ t, execAll (List.replicate n .tick) s = .next t ∧
        t.ppm = { s.ppm with timeout := s.ppm.timeout + BitVec.ofNat 8 n }) ∧
    (s.ppm.timeout.toNat < s.params.ppmTimeoutTicks → s.params.ppmTimeoutTicks ≤ s.ppm.timeout.toNat + n →
      ∃ t ns, execAll (List.replicate n .tick) s = .next t ∧ t.ppm.receiving = false ∧ t.ppm.newData = false ∧
        t.ppm.count = 0 ∧ t.ppm.state = .wfs ∧ t.ppm.timeout.toNat = s.params.ppmTimeoutTicks ∧
        t.notifications = s.notifications ++ ns ∧ errorsOf 1 ns = 1)

/-- In every run in which the environment keeps its duties, from power-on, the alarms the environment owes are exactly
the armed ones, each at its compare time modulo the range of a tick count: no superseded alarm is ever owed (R531,
R575). What the environment owes is the model's own bookkeeping, `Env.nextPpmDue` and `Env.nextSrxlDue` (log entry 12:
DESIGN CHOICE and DEDUCED): the statement checks that bookkeeping against the block's alarm registers. Tick values are
modulo `2^TICK_BITS`: the rules' 16 bits at R10, and at any other value log entry 9 (DEDUCED and DESIGN CHOICE). -/
def Obligations.OwedAlarmsAreTheArmedOnes : Prop :=
  ∀ (p : Params) (now : Nat) (stored : Option (List Byte)) (storeHealthy : Bool) (e : Env) (t : State),
    TimedRun (.start now stored storeHealthy) (State.powerOn p) e t →
    (t.ppm.alarmArmed = true ↔ ∃ d, e.ppmDue = some d) ∧
    (∀ d, e.ppmDue = some d → t.ppm.alarmAt = BitVec.ofNat 16 (d % 2 ^ p.tickBits)) ∧
    (t.srxl.alarmArmed = true ↔ ∃ d, e.srxlDue = some d) ∧
    ∀ d, e.srxlDue = some d → t.srxl.alarmAt = BitVec.ofNat 16 (d % 2 ^ p.tickBits)
end

