-- ==== Sys2Proof/Laws/Bytes.lean ====
section
/-! SUPPORT. Laws of bytes, payload words, and record images. -/

namespace Sys2Proof

@[simp] theorem bytesOfWord_length (w : Word) : (bytesOfWord w).length = 4 := rfl

@[simp] theorem bytesOfWords_length (ws : List Word) : (bytesOfWords ws).length = 4 * ws.length := by
  induction ws with
  | nil => rfl
  | cons w ws ih => simp only [bytesOfWords, List.length_append, bytesOfWord_length, ih, List.length_cons]; omega

theorem bytesOfWords_append (xs ys : List Word) : bytesOfWords (xs ++ ys) = bytesOfWords xs ++ bytesOfWords ys := by
  induction xs with
  | nil => rfl
  | cons x xs ih => simp [bytesOfWords, ih]

/-- The four bytes of a word give the word back (R105). -/
theorem wordOfBytes_bytesOfWord (w : Word) :
    wordOfBytes (w.extractLsb' 0 8) (w.extractLsb' 8 8) (w.extractLsb' 16 8) (w.extractLsb' 24 8) = w := by
  apply BitVec.eq_of_getLsbD_eq
  intro i hi
  simp only [wordOfBytes, BitVec.getLsbD_append, BitVec.getLsbD_extractLsb']
  by_cases h1 : i < 8
  · simp [h1]
  · by_cases h2 : i < 16
    · have : i - 8 < 8 := by omega
      simp [h1, this, show 8 + (i - 8) = i by omega]
    · by_cases h3 : i < 24
      · have a : ¬ i - 8 < 8 := by omega
        have b : i - 8 - 8 < 8 := by omega
        simp [h1, a, b, show 16 + (i - 8 - 8) = i by omega]
      · have a : ¬ i - 8 < 8 := by omega
        have b : ¬ i - 8 - 8 < 8 := by omega
        have c : i - 8 - 8 - 8 < 8 := by omega
        simp [h1, a, b, c, show 24 + (i - 8 - 8 - 8) = i by omega]

/-- The bytes of a word built from four bytes are those bytes (R105). -/
theorem bytesOfWord_wordOfBytes (b0 b1 b2 b3 : Byte) : bytesOfWord (wordOfBytes b0 b1 b2 b3) = [b0, b1, b2, b3] := by
  simp only [bytesOfWord, wordOfBytes, List.cons.injEq, and_true]
  refine ⟨?_, ?_, ?_, ?_⟩ <;>
  · apply BitVec.eq_of_getLsbD_eq
    intro i hi
    simp only [BitVec.getLsbD_append, BitVec.getLsbD_extractLsb']
    simp [hi, show ¬ 8 + i < 8 by omega, show ¬ 16 + i < 8 by omega, show ¬ 24 + i < 8 by omega,
      show 8 + i - 8 = i by omega, show 16 + i - 8 = 8 + i by omega, show 24 + i - 8 = 16 + i by omega]

/-- Payload words carry exactly the bytes of those words (R105). -/
theorem wordsOfBytes_bytesOfWords (ws : List Word) : wordsOfBytes (bytesOfWords ws) = ws := by
  induction ws with
  | nil => rfl
  | cons w ws ih => simp [bytesOfWords, bytesOfWord, wordsOfBytes, ih, wordOfBytes_bytesOfWord]

theorem wordsOfBytes_length : ∀ (bs : List Byte), (wordsOfBytes bs).length = (bs.length + 3) / 4
  | [] => by simp [wordsOfBytes]
  | [_] => by simp [wordsOfBytes]
  | [_, _] => by simp [wordsOfBytes]
  | [_, _, _] => by simp [wordsOfBytes]
  | b0 :: b1 :: b2 :: b3 :: bs => by
    simp only [wordsOfBytes, List.length_cons, wordsOfBytes_length bs]; omega

/-- Bytes that fill whole words come back from their payload words (R105). -/
theorem bytesOfWords_wordsOfBytes : ∀ (bs : List Byte) (n : Nat), bs.length = 4 * n → bytesOfWords (wordsOfBytes bs) = bs
  | [], _, _ => rfl
  | [_], n, h => by simp only [List.length_cons, List.length_nil] at h; omega
  | [_, _], n, h => by simp only [List.length_cons, List.length_nil] at h; omega
  | [_, _, _], n, h => by simp only [List.length_cons, List.length_nil] at h; omega
  | b0 :: b1 :: b2 :: b3 :: bs, n, h => by
    simp only [List.length_cons] at h
    simp [wordsOfBytes, bytesOfWords, bytesOfWord_wordOfBytes, bytesOfWords_wordsOfBytes bs (n - 1) (by omega)]

namespace Machine

@[simp] theorem overwrite_length (buf : List Byte) (k : Nat) (bs : List Byte) :
    (overwrite buf k bs).length = buf.length := by
  induction bs generalizing buf k with
  | nil => rfl
  | cons b bs ih => simp [overwrite, ih]

@[simp] theorem leBytes_length (v : U16) : (leBytes v).length = 2 := rfl

@[simp] theorem encodeRecord_length (c : CfgRecord) : (encodeRecord c).length = 14 + c.mapping.length := by
  simp only [encodeRecord, List.length_append, leBytes_length, List.length_cons, List.length_nil]

@[simp] theorem decodeRecord_mapping_length (p : Params) (bs : List Byte) :
    (decodeRecord p bs).mapping.length = p.maxOutputChannels := by simp [decodeRecord]

/-- Overwriting behind some bytes that are already there fills the buffer from there on. -/
theorem overwrite_behind (done bs rest : List Byte) :
    ∀ (new : List Byte), rest.length = new.length → overwrite (done ++ rest ++ bs) done.length new = done ++ new ++ bs := by
  intro new
  induction new generalizing done rest with
  | nil => intro h; simp_all [overwrite]
  | cons b new ih =>
    intro h
    match rest, h with
    | r :: rest, h =>
      have := ih (done ++ [b]) rest (by simpa using h)
      simpa [overwrite, List.set_append] using this

end Machine

end Sys2Proof
end

