-- ==== Sys2Proof/Laws/Decode.lean ====
section
/-! SUPPORT. Laws of the decoder (R141 to R150). -/

namespace Sys2Proof

/-- The opcode map covers all 32 opcodes (R144, R145). -/
theorem decodeOp_ne_noOpcode (w : Word) (payload : List Byte) : decodeOp w payload ≠ .error .noOpcode := by
  unfold decodeOp
  split <;> simp_all [formatN, formatT, formatB, formatI, formatK, formatP] <;> try split <;> simp
  rename_i h0 h1 h2 h3 h4 h5 h6 h7 h8 h9 h10 h11 h12 h13 h14 h15 h16 h17 h18 h19 h20 h21 h22 h23 h24 h25 h26 h27 h28 h29 h30 h31
  have := (fieldOp w).isLt
  simp only [← BitVec.toNat_inj, BitVec.toNat_ofNat] at *
  omega

end Sys2Proof
end

