-- ==== Sys2Proof/Laws/Ops.lean ====
section
/-! SUPPORT. Laws of the shared operations of `Machine/Ops.lean`, `Machine/Operands.lean` and `Machine/Flags.lean`: what
each can do, said once. -/

namespace Sys2Proof.Machine

/-! ### Tick counts (R11, R16) -/

/-- Only the `TICK_BITS` low bits of a value are stored. -/
theorem truncTicks_toNat (p : Params) (v : U16) : (truncTicks p v).toNat = v.toNat % 2 ^ p.tickBits := by
  rw [truncTicks, BitVec.toNat_ofNat]
  exact Nat.mod_eq_of_lt (Nat.lt_of_le_of_lt (Nat.mod_le _ _) v.isLt)

/-- A 16-bit value that is already a tick count is stored unchanged. -/
theorem truncTicks_of_lt (p : Params) (v : U16) (h : v.toNat < 2 ^ p.tickBits) : truncTicks p v = v := by
  apply BitVec.eq_of_toNat_eq
  rw [truncTicks_toNat, Nat.mod_eq_of_lt h]

/-- At the 16 bits of R10 a tick count is the whole value. -/
theorem truncTicks_sixteen (p : Params) (h : p.tickBits = 16) (v : U16) : truncTicks p v = v :=
  truncTicks_of_lt p v (by rw [h]; exact v.isLt)

/-- At the 16 bits of R10 the difference is `trunc_16(a - b)` (R16). -/
theorem ticksSub_sixteen (p : Params) (h : p.tickBits = 16) (a b : U16) : ticksSub p a b = a - b :=
  truncTicks_sixteen p h _

/-- At the 16 bits of R10 the conversion is the one of R11. -/
theorem usToTicks_sixteen (p : Params) (h : p.tickBits = 16) (u : Nat) :
    usToTicks p u = BitVec.ofNat 16 (u * p.ticksPerUs) := by
  apply BitVec.eq_of_toNat_eq
  simp [usToTicks, h]

/-- Truncation to a tick count sees a 16-bit value modulo `2 ^ TICK_BITS` only. -/
theorem truncTicks_eq_iff (p : Params) (a b : U16) :
    truncTicks p a = truncTicks p b ↔ a.toNat % 2 ^ p.tickBits = b.toNat % 2 ^ p.tickBits := by
  rw [← BitVec.toNat_inj, truncTicks_toNat, truncTicks_toNat]

/-! ### Banks (R101) -/

@[simp] theorem Banks.side_write_same {α : Type} (bk : Banks α) (b : Bool) (i : Nat) (v : α) :
    (bk.write b i v).side b = (bk.side b).set i v := by
  cases b <;> rfl

/-- A write to one side leaves the other side alone. -/
@[simp] theorem Banks.side_write_not (α : Type) (bk : Banks α) (b : Bool) (i : Nat) (v : α) :
    (bk.write b i v).side (!b) = bk.side (!b) := by
  cases b <;> rfl

theorem Banks.side_write_other {α : Type} (bk : Banks α) (b c : Bool) (i : Nat) (v : α) (h : c ≠ b) :
    (bk.write b i v).side c = bk.side c := by
  cases b <;> cases c <;> first | rfl | exact absurd rfl h

/-- A read after a write to the same entry gives the value written. -/
theorem Banks.read_write_same {α : Type} (bk : Banks α) (b : Bool) (i : Nat) (v : α)
    (h : i < (bk.side b).length) : (bk.write b i v).read b i = some v := by
  simp [Banks.read, h]

/-- A write leaves every other entry of both sides alone. -/
theorem Banks.read_write_other {α : Type} (bk : Banks α) (b c : Bool) (i j : Nat) (v : α)
    (h : (c, j) ≠ (b, i)) : (bk.write b i v).read c j = bk.read c j := by
  by_cases hc : c = b
  · subst hc
    have hj : i ≠ j := fun e => h (by rw [e])
    simp only [Banks.read, Banks.side_write_same]
    exact List.getElem?_set_ne hj
  · simp only [Banks.read, Banks.side_write_other bk b c i v hc]

/-- An entry exists exactly below the size of the bank. -/
theorem Banks.read_eq_some_iff {α : Type} (bk : Banks α) (b : Bool) (i : Nat) :
    (∃ v, bk.read b i = some v) ↔ i < (bk.side b).length := by
  simp only [Banks.read]
  constructor
  · rintro ⟨v, hv⟩; exact (List.getElem?_eq_some_iff.mp hv).1
  · intro h; exact ⟨(bk.side b)[i], by simp [h]⟩

/-- The size of either side of a bank that has its size. -/
theorem Banks.Sized.side_length {α : Type} {bk : Banks α} {n : Nat} (h : bk.Sized n) (b : Bool) :
    (bk.side b).length = n := by
  cases b
  · exact h.1
  · exact h.2

@[simp] theorem Banks.zero_sized {w : Nat} (n : Nat) : (Banks.zero (w := w) n).Sized n := by
  simp [Banks.zero, Banks.Sized]

/-- A write keeps the sizes. -/
@[simp] theorem Banks.write_sized {α : Type} (bk : Banks α) (b : Bool) (i : Nat) (v : α) (n : Nat) :
    (bk.write b i v).Sized n ↔ bk.Sized n := by
  cases b <;> simp [Banks.write, Banks.Sized]

/-- A copy keeps the sizes. -/
@[simp] theorem Banks.copy_sized {α : Type} (bk : Banks α) (c : Bool) (j : Nat) (b : Bool) (i n : Nat) :
    (bk.copy c j b i).Sized n ↔ bk.Sized n := by
  unfold Banks.copy
  split
  · exact Banks.write_sized ..
  · exact Iff.rfl

/-- All a copy does, in banks that have both entries. -/
theorem Banks.copy_read {α : Type} (bk : Banks α) (c : Bool) (j : Nat) (b : Bool) (i : Nat)
    (hj : j < (bk.side c).length) (hi : i < (bk.side b).length) (d : Bool) (k : Nat) :
    (bk.copy c j b i).read d k = if d = b ∧ k = i then bk.read c j else bk.read d k := by
  obtain ⟨v, hv⟩ : ∃ v, bk.read c j = some v := ⟨_, List.getElem?_eq_getElem hj⟩
  simp only [Banks.copy, hv]
  split
  · rename_i h
    obtain ⟨rfl, rfl⟩ := h
    simp [Banks.read, hi]
  · rename_i h
    by_cases hd : d = b
    · subst hd
      have hk : i ≠ k := fun e => h ⟨rfl, e.symm⟩
      simp only [Banks.read, Banks.side_write_same]
      exact List.getElem?_set_ne hk
    · cases b <;> cases d <;> first | rfl | exact absurd rfl hd

/-- A copy into one side leaves the other side alone. -/
@[simp] theorem Banks.side_copy_not {α : Type} (bk : Banks α) (c : Bool) (j : Nat) (b : Bool) (i : Nat) :
    (bk.copy c j b i).side (!b) = bk.side (!b) := by
  unfold Banks.copy
  split
  · exact Banks.side_write_not ..
  · rfl

theorem Banks.readOrFault_eq_ok_iff {α : Type} (bk : Banks α) (space : Space) (b : Bool) (i : Nat) (v : α) :
    bk.readOrFault space b i = .ok v ↔ bk.read b i = some v := by
  unfold Banks.readOrFault
  split <;> rename_i h <;> simp [h]

/-! ### Port words (R146, R148) -/

@[simp] theorem responseWord_ok (v : U16) : responseWord .ok v = v.setWidth 32 := by
  apply BitVec.eq_of_getLsbD_eq
  intro i hi
  simp only [responseWord, Status.code, BitVec.getLsbD_append, BitVec.getLsbD_setWidth]
  by_cases h : i < 16
  · simp [h, hi]
  · simp [h, hi, BitVec.getLsbD_of_ge v i (by omega)]

@[simp] theorem responseWord_illegal : responseWord .illegal 0#16 = 0x01000000#32 := by decide
@[simp] theorem responseWord_range : responseWord .range 0#16 = 0x02000000#32 := by decide
@[simp] theorem responseWord_configInvalid : responseWord .configInvalid 0#16 = 0x03000000#32 := by decide

theorem noteSync_eq (d : DecoderId) : noteSync d = (0x1000#16 ||| (d.code.setWidth 16 <<< 8)) ++ 0#16 := by
  cases d <;> decide

/-- The decoder field of a notification (R148). -/
theorem noteWord_decoder (kind : BitVec 4) (dec : BitVec 2) (code : BitVec 8) (value : U16) :
    (noteWord kind dec code value).extractLsb' 24 2 = dec := by
  apply BitVec.eq_of_getLsbD_eq
  intro i hi
  simp only [noteWord, BitVec.getLsbD_append, BitVec.getLsbD_extractLsb']
  have a : ¬ 24 + i < 16 := by omega
  have b : ¬ 24 + i - 16 < 8 := by omega
  have c : 24 + i - 16 - 8 < 2 := by omega
  simp only [a, b, c, hi, decide_true, Bool.true_and, if_true, if_false]
  rw [show 24 + i - 16 - 8 = i by omega]

/-- The kind field of a notification (R148). -/
theorem noteWord_kind (kind : BitVec 4) (dec : BitVec 2) (code : BitVec 8) (value : U16) :
    (noteWord kind dec code value).extractLsb' 28 4 = kind := by
  apply BitVec.eq_of_getLsbD_eq
  intro i hi
  simp only [noteWord, BitVec.getLsbD_append, BitVec.getLsbD_extractLsb']
  have a : ¬ 28 + i < 16 := by omega
  have b : ¬ 28 + i - 16 < 8 := by omega
  have c : ¬ 28 + i - 16 - 8 < 2 := by omega
  have d : ¬ 28 + i - 16 - 8 - 2 < 2 := by omega
  simp only [a, b, c, d, hi, decide_true, Bool.true_and, if_false]
  rw [show 28 + i - 16 - 8 - 2 - 2 = i by omega]

/-! ### Timeout counters (R213, R277, R316) -/

/-- Everything a TICK can do to a counter, for a limit the counter can hold. -/
theorem timeoutTick_cases (limit : Nat) (t : BitVec 8) (h : limit < 2 ^ 8) :
    (limit ≤ t.toNat ∧ timeoutTick limit t = .saturated) ∨
    (t.toNat + 1 < limit ∧ (t + 1).toNat = t.toNat + 1 ∧ timeoutTick limit t = .counting (t + 1)) ∨
    (t.toNat + 1 = limit ∧ (t + 1).toNat = limit ∧ timeoutTick limit t = .expired (t + 1)) := by
  by_cases hs : t.toNat < limit
  · have e : (t + 1).toNat = t.toNat + 1 := by
      rw [BitVec.toNat_add]; change (t.toNat + 1) % 2 ^ 8 = t.toNat + 1; omega
    by_cases hl : t.toNat + 1 = limit
    · exact .inr (.inr ⟨hl, by omega, by simp only [timeoutTick, hs, e, hl, if_true]⟩)
    · exact .inr (.inl ⟨by omega, e, by simp only [timeoutTick, hs, e, hl, if_true, if_false]⟩)
  · exact .inl ⟨by omega, by simp [timeoutTick, hs]⟩

/-! ### Operands (R143) -/

/-- The four values of the operand `k`. -/
theorem decoderOperand_cases (k : BitVec 2) :
    (k = 0 ∧ decoderOperand k = none) ∨ (k = 1 ∧ decoderOperand k = some .ppm) ∨
    (k = 2 ∧ decoderOperand k = some .pcm) ∨ (k = 3 ∧ decoderOperand k = some .srxl) := by
  revert k; decide

/-! ### Outcomes -/

@[simp] theorem outcomeOf_ok (s : State) : outcomeOf (.ok s) = .next s := rfl
@[simp] theorem outcomeOf_error (f : Fault) : outcomeOf (.error f) = .fault f := rfl

/-- Only an answer without an error is a next state. -/
theorem outcomeOf_eq_next_iff (r : Except Fault State) (t : State) : outcomeOf r = .next t ↔ r = .ok t := by
  cases r <;> simp [outcomeOf]

/-- All an illegal word does (R460). -/
theorem illegalWord_eq (s : State) :
    illegalWord s =
      { s with responses := s.responses ++ [0x01000000], notifications := s.notifications ++ [0x30410000] } := by
  rfl

end Sys2Proof.Machine
end

