-- ==== Sys2Proof/Laws/PerInstr.lean ====
section
/-! SUPPORT. Statements for all instructions, one lemma per constructor. `EncodedLength`: an instruction is one word, plus
the `W` payload words of CFG_WRITE and of CFG_LOAD with `p = 1` (R150). -/

namespace Sys2Proof.Laws

/-- The number of words of a well-formed instruction (R150). -/
def EncodedLength.Statement (i : Instr) : Prop :=
  ∀ p : Params, i.WellFormed p → (encode i).length = 1 + if i.takesPayload then p.payloadWords else 0

theorem EncodedLength.edge (r : Bool) (t : U16) : EncodedLength.Statement (.edge r t) := fun _ _ => rfl
theorem EncodedLength.uartByte (d : Byte) (t : U16) : EncodedLength.Statement (.uartByte d t) := fun _ _ => rfl
theorem EncodedLength.alarmPpm : EncodedLength.Statement .alarmPpm := fun _ _ => rfl
theorem EncodedLength.alarmSrxl : EncodedLength.Statement .alarmSrxl := fun _ _ => rfl
theorem EncodedLength.tick : EncodedLength.Statement .tick := fun _ _ => rfl
theorem EncodedLength.update : EncodedLength.Statement .update := fun _ _ => rfl
theorem EncodedLength.getSource : EncodedLength.Statement .getSource := fun _ _ => rfl
theorem EncodedLength.getCount : EncodedLength.Statement .getCount := fun _ _ => rfl
theorem EncodedLength.getInput (i : Byte) : EncodedLength.Statement (.getInput i) := fun _ _ => rfl
theorem EncodedLength.getOutput (i : Byte) : EncodedLength.Statement (.getOutput i) := fun _ _ => rfl
theorem EncodedLength.getDecoderStatus (k : BitVec 2) : EncodedLength.Statement (.getDecoderStatus k) := fun _ _ => rfl
theorem EncodedLength.clearNewData (k : BitVec 2) : EncodedLength.Statement (.clearNewData k) := fun _ _ => rfl
theorem EncodedLength.cfgRead : EncodedLength.Statement .cfgRead := fun _ _ => rfl
theorem EncodedLength.cfgWrite (payload : List Byte) : EncodedLength.Statement (.cfgWrite payload) := by
  intro p h
  have e : payload.length = 4 * p.payloadWords := h
  have l : (encode (.cfgWrite payload)).length = 1 + (wordsOfBytes payload).length := Nat.add_comm _ _
  rw [l, wordsOfBytes_length, e, show (4 * p.payloadWords + 3) / 4 = p.payloadWords by omega]
  rfl
theorem EncodedLength.cfgDefault : EncodedLength.Statement .cfgDefault := fun _ _ => rfl
theorem EncodedLength.cfgSave : EncodedLength.Statement .cfgSave := fun _ _ => rfl
theorem EncodedLength.cfgLoad (payload : Option (List Byte)) : EncodedLength.Statement (.cfgLoad payload) := by
  intro p h
  cases payload with
  | none => rfl
  | some bs =>
    have e : bs.length = 4 * p.payloadWords := h
    have l : (encode (.cfgLoad (some bs))).length = 1 + (wordsOfBytes bs).length := Nat.add_comm _ _
    rw [l, wordsOfBytes_length, e, show (4 * p.payloadWords + 3) / 4 = p.payloadWords by omega]
    rfl
theorem EncodedLength.reset : EncodedLength.Statement .reset := fun _ _ => rfl
theorem EncodedLength.reservedOp00 (low : BitVec 27) : EncodedLength.Statement (.reservedOp00 low) := fun _ _ => rfl
theorem EncodedLength.reservedOp06 (low : BitVec 27) : EncodedLength.Statement (.reservedOp06 low) := fun _ _ => rfl
theorem EncodedLength.reservedOp07 (low : BitVec 27) : EncodedLength.Statement (.reservedOp07 low) := fun _ _ => rfl
theorem EncodedLength.reservedOp0F (low : BitVec 27) : EncodedLength.Statement (.reservedOp0F low) := fun _ _ => rfl
theorem EncodedLength.reservedOp15 (low : BitVec 27) : EncodedLength.Statement (.reservedOp15 low) := fun _ _ => rfl
theorem EncodedLength.reservedOp16 (low : BitVec 27) : EncodedLength.Statement (.reservedOp16 low) := fun _ _ => rfl
theorem EncodedLength.reservedOp17 (low : BitVec 27) : EncodedLength.Statement (.reservedOp17 low) := fun _ _ => rfl
theorem EncodedLength.reservedOp18 (low : BitVec 27) : EncodedLength.Statement (.reservedOp18 low) := fun _ _ => rfl
theorem EncodedLength.reservedOp19 (low : BitVec 27) : EncodedLength.Statement (.reservedOp19 low) := fun _ _ => rfl
theorem EncodedLength.reservedOp1A (low : BitVec 27) : EncodedLength.Statement (.reservedOp1A low) := fun _ _ => rfl
theorem EncodedLength.reservedOp1B (low : BitVec 27) : EncodedLength.Statement (.reservedOp1B low) := fun _ _ => rfl
theorem EncodedLength.reservedOp1C (low : BitVec 27) : EncodedLength.Statement (.reservedOp1C low) := fun _ _ => rfl
theorem EncodedLength.reservedOp1D (low : BitVec 27) : EncodedLength.Statement (.reservedOp1D low) := fun _ _ => rfl
theorem EncodedLength.reservedOp1E (low : BitVec 27) : EncodedLength.Statement (.reservedOp1E low) := fun _ _ => rfl

end Sys2Proof.Laws
end

