-- ==== Sys2Proof/Laws/State.lean ====
section
/-! SUPPORT. One lemma per field of State for each of its updates, so that no proof unfolds a record update. -/

namespace Sys2Proof.Machine

@[simp] theorem State.respond_params (s : State) (st : Status) (v : U16) : (s.respond st v).params = s.params := rfl
@[simp] theorem State.respond_cfg (s : State) (st : Status) (v : U16) : (s.respond st v).cfg = s.cfg := rfl
@[simp] theorem State.respond_ppm (s : State) (st : Status) (v : U16) : (s.respond st v).ppm = s.ppm := rfl
@[simp] theorem State.respond_pcm (s : State) (st : Status) (v : U16) : (s.respond st v).pcm = s.pcm := rfl
@[simp] theorem State.respond_srxl (s : State) (st : Status) (v : U16) : (s.respond st v).srxl = s.srxl := rfl
@[simp] theorem State.respond_agg (s : State) (st : Status) (v : U16) : (s.respond st v).agg = s.agg := rfl
@[simp] theorem State.respond_inp (s : State) (st : Status) (v : U16) : (s.respond st v).inp = s.inp := rfl
@[simp] theorem State.respond_input (s : State) (st : Status) (v : U16) : (s.respond st v).input = s.input := rfl
@[simp] theorem State.respond_responses (s : State) (st : Status) (v : U16) : (s.respond st v).responses = s.responses ++ [responseWord st v] := rfl
@[simp] theorem State.respond_notifications (s : State) (st : Status) (v : U16) : (s.respond st v).notifications = s.notifications := rfl
@[simp] theorem State.respond_store (s : State) (st : Status) (v : U16) : (s.respond st v).store = s.store := rfl

@[simp] theorem State.respondPayload_params (s : State) (bs : List Byte) : (s.respondPayload bs).params = s.params := rfl
@[simp] theorem State.respondPayload_cfg (s : State) (bs : List Byte) : (s.respondPayload bs).cfg = s.cfg := rfl
@[simp] theorem State.respondPayload_ppm (s : State) (bs : List Byte) : (s.respondPayload bs).ppm = s.ppm := rfl
@[simp] theorem State.respondPayload_pcm (s : State) (bs : List Byte) : (s.respondPayload bs).pcm = s.pcm := rfl
@[simp] theorem State.respondPayload_srxl (s : State) (bs : List Byte) : (s.respondPayload bs).srxl = s.srxl := rfl
@[simp] theorem State.respondPayload_agg (s : State) (bs : List Byte) : (s.respondPayload bs).agg = s.agg := rfl
@[simp] theorem State.respondPayload_inp (s : State) (bs : List Byte) : (s.respondPayload bs).inp = s.inp := rfl
@[simp] theorem State.respondPayload_input (s : State) (bs : List Byte) : (s.respondPayload bs).input = s.input := rfl
@[simp] theorem State.respondPayload_responses (s : State) (bs : List Byte) : (s.respondPayload bs).responses = s.responses ++ wordsOfBytes bs := rfl
@[simp] theorem State.respondPayload_notifications (s : State) (bs : List Byte) : (s.respondPayload bs).notifications = s.notifications := rfl
@[simp] theorem State.respondPayload_store (s : State) (bs : List Byte) : (s.respondPayload bs).store = s.store := rfl

@[simp] theorem State.notify_params (s : State) (ns : List Word) : (s.notify ns).params = s.params := rfl
@[simp] theorem State.notify_cfg (s : State) (ns : List Word) : (s.notify ns).cfg = s.cfg := rfl
@[simp] theorem State.notify_ppm (s : State) (ns : List Word) : (s.notify ns).ppm = s.ppm := rfl
@[simp] theorem State.notify_pcm (s : State) (ns : List Word) : (s.notify ns).pcm = s.pcm := rfl
@[simp] theorem State.notify_srxl (s : State) (ns : List Word) : (s.notify ns).srxl = s.srxl := rfl
@[simp] theorem State.notify_agg (s : State) (ns : List Word) : (s.notify ns).agg = s.agg := rfl
@[simp] theorem State.notify_inp (s : State) (ns : List Word) : (s.notify ns).inp = s.inp := rfl
@[simp] theorem State.notify_input (s : State) (ns : List Word) : (s.notify ns).input = s.input := rfl
@[simp] theorem State.notify_responses (s : State) (ns : List Word) : (s.notify ns).responses = s.responses := rfl
@[simp] theorem State.notify_notifications (s : State) (ns : List Word) : (s.notify ns).notifications = s.notifications ++ ns := rfl
@[simp] theorem State.notify_store (s : State) (ns : List Word) : (s.notify ns).store = s.store := rfl

@[simp] theorem State.raiseError_params (s : State) (d : Option DecoderId) (c : Cause) : (s.raiseError d c).params = s.params := rfl
@[simp] theorem State.raiseError_cfg (s : State) (d : Option DecoderId) (c : Cause) : (s.raiseError d c).cfg = s.cfg := rfl
@[simp] theorem State.raiseError_ppm (s : State) (d : Option DecoderId) (c : Cause) : (s.raiseError d c).ppm = s.ppm := rfl
@[simp] theorem State.raiseError_pcm (s : State) (d : Option DecoderId) (c : Cause) : (s.raiseError d c).pcm = s.pcm := rfl
@[simp] theorem State.raiseError_srxl (s : State) (d : Option DecoderId) (c : Cause) : (s.raiseError d c).srxl = s.srxl := rfl
@[simp] theorem State.raiseError_agg (s : State) (d : Option DecoderId) (c : Cause) : (s.raiseError d c).agg = s.agg := rfl
@[simp] theorem State.raiseError_inp (s : State) (d : Option DecoderId) (c : Cause) : (s.raiseError d c).inp = s.inp := rfl
@[simp] theorem State.raiseError_input (s : State) (d : Option DecoderId) (c : Cause) : (s.raiseError d c).input = s.input := rfl
@[simp] theorem State.raiseError_responses (s : State) (d : Option DecoderId) (c : Cause) : (s.raiseError d c).responses = s.responses := rfl
@[simp] theorem State.raiseError_notifications (s : State) (d : Option DecoderId) (c : Cause) : (s.raiseError d c).notifications = s.notifications ++ [noteError d c] := rfl
@[simp] theorem State.raiseError_store (s : State) (d : Option DecoderId) (c : Cause) : (s.raiseError d c).store = s.store := rfl

@[simp] theorem State.storePut_params (s : State) (bs : List Byte) : (s.storePut bs).params = s.params := rfl
@[simp] theorem State.storePut_cfg (s : State) (bs : List Byte) : (s.storePut bs).cfg = s.cfg := rfl
@[simp] theorem State.storePut_ppm (s : State) (bs : List Byte) : (s.storePut bs).ppm = s.ppm := rfl
@[simp] theorem State.storePut_pcm (s : State) (bs : List Byte) : (s.storePut bs).pcm = s.pcm := rfl
@[simp] theorem State.storePut_srxl (s : State) (bs : List Byte) : (s.storePut bs).srxl = s.srxl := rfl
@[simp] theorem State.storePut_agg (s : State) (bs : List Byte) : (s.storePut bs).agg = s.agg := rfl
@[simp] theorem State.storePut_inp (s : State) (bs : List Byte) : (s.storePut bs).inp = s.inp := rfl
@[simp] theorem State.storePut_input (s : State) (bs : List Byte) : (s.storePut bs).input = s.input := rfl
@[simp] theorem State.storePut_responses (s : State) (bs : List Byte) : (s.storePut bs).responses = s.responses := rfl
@[simp] theorem State.storePut_notifications (s : State) (bs : List Byte) : (s.storePut bs).notifications = s.notifications := rfl
@[simp] theorem State.storePut_store (s : State) (bs : List Byte) : (s.storePut bs).store = s.store ++ [bs] := rfl

@[simp] theorem State.withPpm_params (s : State) (u : Ppm) : (s.withPpm u).params = s.params := rfl
@[simp] theorem State.withPpm_cfg (s : State) (u : Ppm) : (s.withPpm u).cfg = s.cfg := rfl
@[simp] theorem State.withPpm_ppm (s : State) (u : Ppm) : (s.withPpm u).ppm = u := rfl
@[simp] theorem State.withPpm_pcm (s : State) (u : Ppm) : (s.withPpm u).pcm = s.pcm := rfl
@[simp] theorem State.withPpm_srxl (s : State) (u : Ppm) : (s.withPpm u).srxl = s.srxl := rfl
@[simp] theorem State.withPpm_agg (s : State) (u : Ppm) : (s.withPpm u).agg = s.agg := rfl
@[simp] theorem State.withPpm_inp (s : State) (u : Ppm) : (s.withPpm u).inp = s.inp := rfl
@[simp] theorem State.withPpm_input (s : State) (u : Ppm) : (s.withPpm u).input = s.input := rfl
@[simp] theorem State.withPpm_responses (s : State) (u : Ppm) : (s.withPpm u).responses = s.responses := rfl
@[simp] theorem State.withPpm_notifications (s : State) (u : Ppm) : (s.withPpm u).notifications = s.notifications := rfl
@[simp] theorem State.withPpm_store (s : State) (u : Ppm) : (s.withPpm u).store = s.store := rfl

@[simp] theorem State.withPcm_params (s : State) (u : Pcm) : (s.withPcm u).params = s.params := rfl
@[simp] theorem State.withPcm_cfg (s : State) (u : Pcm) : (s.withPcm u).cfg = s.cfg := rfl
@[simp] theorem State.withPcm_ppm (s : State) (u : Pcm) : (s.withPcm u).ppm = s.ppm := rfl
@[simp] theorem State.withPcm_pcm (s : State) (u : Pcm) : (s.withPcm u).pcm = u := rfl
@[simp] theorem State.withPcm_srxl (s : State) (u : Pcm) : (s.withPcm u).srxl = s.srxl := rfl
@[simp] theorem State.withPcm_agg (s : State) (u : Pcm) : (s.withPcm u).agg = s.agg := rfl
@[simp] theorem State.withPcm_inp (s : State) (u : Pcm) : (s.withPcm u).inp = s.inp := rfl
@[simp] theorem State.withPcm_input (s : State) (u : Pcm) : (s.withPcm u).input = s.input := rfl
@[simp] theorem State.withPcm_responses (s : State) (u : Pcm) : (s.withPcm u).responses = s.responses := rfl
@[simp] theorem State.withPcm_notifications (s : State) (u : Pcm) : (s.withPcm u).notifications = s.notifications := rfl
@[simp] theorem State.withPcm_store (s : State) (u : Pcm) : (s.withPcm u).store = s.store := rfl

@[simp] theorem State.withSrxl_params (s : State) (u : Srxl) : (s.withSrxl u).params = s.params := rfl
@[simp] theorem State.withSrxl_cfg (s : State) (u : Srxl) : (s.withSrxl u).cfg = s.cfg := rfl
@[simp] theorem State.withSrxl_ppm (s : State) (u : Srxl) : (s.withSrxl u).ppm = s.ppm := rfl
@[simp] theorem State.withSrxl_pcm (s : State) (u : Srxl) : (s.withSrxl u).pcm = s.pcm := rfl
@[simp] theorem State.withSrxl_srxl (s : State) (u : Srxl) : (s.withSrxl u).srxl = u := rfl
@[simp] theorem State.withSrxl_agg (s : State) (u : Srxl) : (s.withSrxl u).agg = s.agg := rfl
@[simp] theorem State.withSrxl_inp (s : State) (u : Srxl) : (s.withSrxl u).inp = s.inp := rfl
@[simp] theorem State.withSrxl_input (s : State) (u : Srxl) : (s.withSrxl u).input = s.input := rfl
@[simp] theorem State.withSrxl_responses (s : State) (u : Srxl) : (s.withSrxl u).responses = s.responses := rfl
@[simp] theorem State.withSrxl_notifications (s : State) (u : Srxl) : (s.withSrxl u).notifications = s.notifications := rfl
@[simp] theorem State.withSrxl_store (s : State) (u : Srxl) : (s.withSrxl u).store = s.store := rfl

@[simp] theorem State.withAgg_params (s : State) (u : Agg) : (s.withAgg u).params = s.params := rfl
@[simp] theorem State.withAgg_cfg (s : State) (u : Agg) : (s.withAgg u).cfg = s.cfg := rfl
@[simp] theorem State.withAgg_ppm (s : State) (u : Agg) : (s.withAgg u).ppm = s.ppm := rfl
@[simp] theorem State.withAgg_pcm (s : State) (u : Agg) : (s.withAgg u).pcm = s.pcm := rfl
@[simp] theorem State.withAgg_srxl (s : State) (u : Agg) : (s.withAgg u).srxl = s.srxl := rfl
@[simp] theorem State.withAgg_agg (s : State) (u : Agg) : (s.withAgg u).agg = u := rfl
@[simp] theorem State.withAgg_inp (s : State) (u : Agg) : (s.withAgg u).inp = s.inp := rfl
@[simp] theorem State.withAgg_input (s : State) (u : Agg) : (s.withAgg u).input = s.input := rfl
@[simp] theorem State.withAgg_responses (s : State) (u : Agg) : (s.withAgg u).responses = s.responses := rfl
@[simp] theorem State.withAgg_notifications (s : State) (u : Agg) : (s.withAgg u).notifications = s.notifications := rfl
@[simp] theorem State.withAgg_store (s : State) (u : Agg) : (s.withAgg u).store = s.store := rfl

@[simp] theorem State.withCfg_params (s : State) (c : CfgRecord) : (s.withCfg c).params = s.params := rfl
@[simp] theorem State.withCfg_cfg (s : State) (c : CfgRecord) : (s.withCfg c).cfg = c := rfl
@[simp] theorem State.withCfg_ppm (s : State) (c : CfgRecord) : (s.withCfg c).ppm = s.ppm := rfl
@[simp] theorem State.withCfg_pcm (s : State) (c : CfgRecord) : (s.withCfg c).pcm = s.pcm := rfl
@[simp] theorem State.withCfg_srxl (s : State) (c : CfgRecord) : (s.withCfg c).srxl = s.srxl := rfl
@[simp] theorem State.withCfg_agg (s : State) (c : CfgRecord) : (s.withCfg c).agg = s.agg := rfl
@[simp] theorem State.withCfg_inp (s : State) (c : CfgRecord) : (s.withCfg c).inp = s.inp := rfl
@[simp] theorem State.withCfg_input (s : State) (c : CfgRecord) : (s.withCfg c).input = s.input := rfl
@[simp] theorem State.withCfg_responses (s : State) (c : CfgRecord) : (s.withCfg c).responses = s.responses := rfl
@[simp] theorem State.withCfg_notifications (s : State) (c : CfgRecord) : (s.withCfg c).notifications = s.notifications := rfl
@[simp] theorem State.withCfg_store (s : State) (c : CfgRecord) : (s.withCfg c).store = s.store := rfl

@[simp] theorem State.withInp_params (s : State) (u : Inp) : (s.withInp u).params = s.params := rfl
@[simp] theorem State.withInp_cfg (s : State) (u : Inp) : (s.withInp u).cfg = s.cfg := rfl
@[simp] theorem State.withInp_ppm (s : State) (u : Inp) : (s.withInp u).ppm = s.ppm := rfl
@[simp] theorem State.withInp_pcm (s : State) (u : Inp) : (s.withInp u).pcm = s.pcm := rfl
@[simp] theorem State.withInp_srxl (s : State) (u : Inp) : (s.withInp u).srxl = s.srxl := rfl
@[simp] theorem State.withInp_agg (s : State) (u : Inp) : (s.withInp u).agg = s.agg := rfl
@[simp] theorem State.withInp_inp (s : State) (u : Inp) : (s.withInp u).inp = u := rfl
@[simp] theorem State.withInp_input (s : State) (u : Inp) : (s.withInp u).input = s.input := rfl
@[simp] theorem State.withInp_responses (s : State) (u : Inp) : (s.withInp u).responses = s.responses := rfl
@[simp] theorem State.withInp_notifications (s : State) (u : Inp) : (s.withInp u).notifications = s.notifications := rfl
@[simp] theorem State.withInp_store (s : State) (u : Inp) : (s.withInp u).store = s.store := rfl

@[simp] theorem State.withInput_params (s : State) (ws : List Word) : (s.withInput ws).params = s.params := rfl
@[simp] theorem State.withInput_cfg (s : State) (ws : List Word) : (s.withInput ws).cfg = s.cfg := rfl
@[simp] theorem State.withInput_ppm (s : State) (ws : List Word) : (s.withInput ws).ppm = s.ppm := rfl
@[simp] theorem State.withInput_pcm (s : State) (ws : List Word) : (s.withInput ws).pcm = s.pcm := rfl
@[simp] theorem State.withInput_srxl (s : State) (ws : List Word) : (s.withInput ws).srxl = s.srxl := rfl
@[simp] theorem State.withInput_agg (s : State) (ws : List Word) : (s.withInput ws).agg = s.agg := rfl
@[simp] theorem State.withInput_inp (s : State) (ws : List Word) : (s.withInput ws).inp = s.inp := rfl
@[simp] theorem State.withInput_input (s : State) (ws : List Word) : (s.withInput ws).input = ws := rfl
@[simp] theorem State.withInput_responses (s : State) (ws : List Word) : (s.withInput ws).responses = s.responses := rfl
@[simp] theorem State.withInput_notifications (s : State) (ws : List Word) : (s.withInput ws).notifications = s.notifications := rfl
@[simp] theorem State.withInput_store (s : State) (ws : List Word) : (s.withInput ws).store = s.store := rfl

@[simp] theorem State.takePpm_params (s : State) (r : Ppm × List Word) : (s.takePpm r).params = s.params := rfl
@[simp] theorem State.takePpm_cfg (s : State) (r : Ppm × List Word) : (s.takePpm r).cfg = s.cfg := rfl
@[simp] theorem State.takePpm_ppm (s : State) (r : Ppm × List Word) : (s.takePpm r).ppm = r.1 := rfl
@[simp] theorem State.takePpm_pcm (s : State) (r : Ppm × List Word) : (s.takePpm r).pcm = s.pcm := rfl
@[simp] theorem State.takePpm_srxl (s : State) (r : Ppm × List Word) : (s.takePpm r).srxl = s.srxl := rfl
@[simp] theorem State.takePpm_agg (s : State) (r : Ppm × List Word) : (s.takePpm r).agg = s.agg := rfl
@[simp] theorem State.takePpm_inp (s : State) (r : Ppm × List Word) : (s.takePpm r).inp = s.inp := rfl
@[simp] theorem State.takePpm_input (s : State) (r : Ppm × List Word) : (s.takePpm r).input = s.input := rfl
@[simp] theorem State.takePpm_responses (s : State) (r : Ppm × List Word) : (s.takePpm r).responses = s.responses := rfl
@[simp] theorem State.takePpm_notifications (s : State) (r : Ppm × List Word) : (s.takePpm r).notifications = s.notifications ++ r.2 := rfl
@[simp] theorem State.takePpm_store (s : State) (r : Ppm × List Word) : (s.takePpm r).store = s.store := rfl

@[simp] theorem State.takePcm_params (s : State) (r : Pcm × List Word) : (s.takePcm r).params = s.params := rfl
@[simp] theorem State.takePcm_cfg (s : State) (r : Pcm × List Word) : (s.takePcm r).cfg = s.cfg := rfl
@[simp] theorem State.takePcm_ppm (s : State) (r : Pcm × List Word) : (s.takePcm r).ppm = s.ppm := rfl
@[simp] theorem State.takePcm_pcm (s : State) (r : Pcm × List Word) : (s.takePcm r).pcm = r.1 := rfl
@[simp] theorem State.takePcm_srxl (s : State) (r : Pcm × List Word) : (s.takePcm r).srxl = s.srxl := rfl
@[simp] theorem State.takePcm_agg (s : State) (r : Pcm × List Word) : (s.takePcm r).agg = s.agg := rfl
@[simp] theorem State.takePcm_inp (s : State) (r : Pcm × List Word) : (s.takePcm r).inp = s.inp := rfl
@[simp] theorem State.takePcm_input (s : State) (r : Pcm × List Word) : (s.takePcm r).input = s.input := rfl
@[simp] theorem State.takePcm_responses (s : State) (r : Pcm × List Word) : (s.takePcm r).responses = s.responses := rfl
@[simp] theorem State.takePcm_notifications (s : State) (r : Pcm × List Word) : (s.takePcm r).notifications = s.notifications ++ r.2 := rfl
@[simp] theorem State.takePcm_store (s : State) (r : Pcm × List Word) : (s.takePcm r).store = s.store := rfl

@[simp] theorem State.takeSrxl_params (s : State) (r : Srxl × List Word) : (s.takeSrxl r).params = s.params := rfl
@[simp] theorem State.takeSrxl_cfg (s : State) (r : Srxl × List Word) : (s.takeSrxl r).cfg = s.cfg := rfl
@[simp] theorem State.takeSrxl_ppm (s : State) (r : Srxl × List Word) : (s.takeSrxl r).ppm = s.ppm := rfl
@[simp] theorem State.takeSrxl_pcm (s : State) (r : Srxl × List Word) : (s.takeSrxl r).pcm = s.pcm := rfl
@[simp] theorem State.takeSrxl_srxl (s : State) (r : Srxl × List Word) : (s.takeSrxl r).srxl = r.1 := rfl
@[simp] theorem State.takeSrxl_agg (s : State) (r : Srxl × List Word) : (s.takeSrxl r).agg = s.agg := rfl
@[simp] theorem State.takeSrxl_inp (s : State) (r : Srxl × List Word) : (s.takeSrxl r).inp = s.inp := rfl
@[simp] theorem State.takeSrxl_input (s : State) (r : Srxl × List Word) : (s.takeSrxl r).input = s.input := rfl
@[simp] theorem State.takeSrxl_responses (s : State) (r : Srxl × List Word) : (s.takeSrxl r).responses = s.responses := rfl
@[simp] theorem State.takeSrxl_notifications (s : State) (r : Srxl × List Word) : (s.takeSrxl r).notifications = s.notifications ++ r.2 := rfl
@[simp] theorem State.takeSrxl_store (s : State) (r : Srxl × List Word) : (s.takeSrxl r).store = s.store := rfl

@[simp] theorem illegalWord_params (s : State) : (illegalWord s).params = s.params := rfl
@[simp] theorem illegalWord_cfg (s : State) : (illegalWord s).cfg = s.cfg := rfl
@[simp] theorem illegalWord_ppm (s : State) : (illegalWord s).ppm = s.ppm := rfl
@[simp] theorem illegalWord_pcm (s : State) : (illegalWord s).pcm = s.pcm := rfl
@[simp] theorem illegalWord_srxl (s : State) : (illegalWord s).srxl = s.srxl := rfl
@[simp] theorem illegalWord_agg (s : State) : (illegalWord s).agg = s.agg := rfl
@[simp] theorem illegalWord_inp (s : State) : (illegalWord s).inp = s.inp := rfl
@[simp] theorem illegalWord_input (s : State) : (illegalWord s).input = s.input := rfl
@[simp] theorem illegalWord_responses (s : State) : (illegalWord s).responses = s.responses ++ [responseWord .illegal 0] := rfl
@[simp] theorem illegalWord_notifications (s : State) : (illegalWord s).notifications = s.notifications ++ [noteError none .illegalCommand] := rfl
@[simp] theorem illegalWord_store (s : State) : (illegalWord s).store = s.store := rfl

@[simp] theorem State.resetUnits_params (s : State) : s.resetUnits.params = s.params := rfl
@[simp] theorem State.resetUnits_cfg (s : State) : s.resetUnits.cfg = decodeRecord s.params (encodeRecord (cfgDefaults s.params)) := rfl
@[simp] theorem State.resetUnits_ppm (s : State) : s.resetUnits.ppm = .reset s.params := rfl
@[simp] theorem State.resetUnits_pcm (s : State) : s.resetUnits.pcm = .reset s.params := rfl
@[simp] theorem State.resetUnits_srxl (s : State) : s.resetUnits.srxl = .reset s.params := rfl
@[simp] theorem State.resetUnits_agg (s : State) : s.resetUnits.agg = .reset := rfl
@[simp] theorem State.resetUnits_inp (s : State) : s.resetUnits.inp = .reset s.params := rfl
@[simp] theorem State.resetUnits_input (s : State) : s.resetUnits.input = s.input := rfl
@[simp] theorem State.resetUnits_responses (s : State) : s.resetUnits.responses = s.responses := rfl
@[simp] theorem State.resetUnits_notifications (s : State) : s.resetUnits.notifications = s.notifications := rfl
@[simp] theorem State.resetUnits_store (s : State) : s.resetUnits.store = s.store := rfl
@[simp] theorem cfgApply_params (bs : List Byte) (s : State) : (cfgApply bs s).params = s.params := rfl
@[simp] theorem cfgApply_cfg (bs : List Byte) (s : State) : (cfgApply bs s).cfg = decodeRecord s.params bs := rfl
@[simp] theorem cfgApply_ppm (bs : List Byte) (s : State) : (cfgApply bs s).ppm = s.ppm := rfl
@[simp] theorem cfgApply_pcm (bs : List Byte) (s : State) : (cfgApply bs s).pcm = s.pcm := rfl
@[simp] theorem cfgApply_srxl (bs : List Byte) (s : State) : (cfgApply bs s).srxl = s.srxl := rfl
@[simp] theorem cfgApply_agg (bs : List Byte) (s : State) : (cfgApply bs s).agg = s.agg := rfl
@[simp] theorem cfgApply_inp (bs : List Byte) (s : State) : (cfgApply bs s).inp = s.inp := rfl
@[simp] theorem cfgApply_input (bs : List Byte) (s : State) : (cfgApply bs s).input = s.input := rfl
@[simp] theorem cfgApply_responses (bs : List Byte) (s : State) : (cfgApply bs s).responses = s.responses := rfl
@[simp] theorem cfgApply_notifications (bs : List Byte) (s : State) : (cfgApply bs s).notifications = s.notifications := rfl
@[simp] theorem cfgApply_store (bs : List Byte) (s : State) : (cfgApply bs s).store = s.store := rfl
@[simp] theorem cfgApplyDefaults_params (s : State) : (cfgApplyDefaults s).params = s.params := rfl
@[simp] theorem cfgApplyDefaults_cfg (s : State) : (cfgApplyDefaults s).cfg = decodeRecord s.params (encodeRecord (cfgDefaults s.params)) := rfl
@[simp] theorem cfgApplyDefaults_ppm (s : State) : (cfgApplyDefaults s).ppm = s.ppm := rfl
@[simp] theorem cfgApplyDefaults_pcm (s : State) : (cfgApplyDefaults s).pcm = s.pcm := rfl
@[simp] theorem cfgApplyDefaults_srxl (s : State) : (cfgApplyDefaults s).srxl = s.srxl := rfl
@[simp] theorem cfgApplyDefaults_agg (s : State) : (cfgApplyDefaults s).agg = s.agg := rfl
@[simp] theorem cfgApplyDefaults_inp (s : State) : (cfgApplyDefaults s).inp = s.inp := rfl
@[simp] theorem cfgApplyDefaults_input (s : State) : (cfgApplyDefaults s).input = s.input := rfl
@[simp] theorem cfgApplyDefaults_responses (s : State) : (cfgApplyDefaults s).responses = s.responses := rfl
@[simp] theorem cfgApplyDefaults_notifications (s : State) : (cfgApplyDefaults s).notifications = s.notifications := rfl
@[simp] theorem cfgApplyDefaults_store (s : State) : (cfgApplyDefaults s).store = s.store := rfl

end Sys2Proof.Machine
end

