-- ==== Sys2Proof/Laws/Step.lean ====
section
/-! SUPPORT. Laws of the input assembler and of `step`: everything a word can come to, said once. -/

namespace Sys2Proof.Machine

/-- Everything the arrival of a word can come to (R150). -/
theorem arrive_cases (p : Params) (u : Inp) (w : Word) :
    (u.need = 0 ∧ payloadCount p.payloadWords w = 0 ∧ arrive p u w = .complete w [] u) ∨
    (u.need = 0 ∧ payloadCount p.payloadWords w ≠ 0 ∧
      arrive p u w = .collecting { u with op := w, need := BitVec.ofNat 8 (payloadCount p.payloadWords w) }) ∨
    (u.need = 1 ∧ arrive p u w = .complete u.op (u.append p w) (u.cleared p)) ∨
    (u.need ≠ 0 ∧ u.need ≠ 1 ∧ arrive p u w = .collecting { u with need := u.need - 1, buf := u.append p w }) := by
  by_cases h0 : u.need = 0
  · by_cases hc : payloadCount p.payloadWords w = 0
    · exact .inl ⟨h0, hc, by simp [arrive, h0, hc]⟩
    · exact .inr (.inl ⟨h0, hc, by simp [arrive, h0, hc]⟩)
  · by_cases h1 : u.need = 1
    · exact .inr (.inr (.inl ⟨h1, by simp [arrive, h1]⟩))
    · refine .inr (.inr (.inr ⟨h0, h1, ?_⟩))
      unfold arrive
      rw [if_pos h0, if_neg h1]

theorem step_word (s : State) (w : Word) (rest : List Word) (hp : s.params.Admitted) (hi : s.input = w :: rest) :
    step s = takeWord w (s.withInput rest) := by
  unfold step
  rw [if_pos hp, hi]

theorem step_empty (s : State) (hp : s.params.Admitted) (hi : s.input = []) : step s = awaitWord s := by
  unfold step
  rw [if_pos hp, hi]

/-- Everything a step that answers a next state has done. -/
theorem step_eq_next_cases (s t : State) (h : step s = .next t) :
    s.params.Admitted ∧
    ((s.input = [] ∧ s.inp.need = 0 ∧ t = s) ∨
    ∃ w rest, s.input = w :: rest ∧
      ((∃ u, arrive s.params s.inp w = .collecting u ∧ t = (s.withInput rest).withInp u) ∨
      (∃ op payload u, arrive s.params s.inp w = .complete op payload u ∧
        ((∃ i, decodeOp op payload = .ok i ∧ exec i ((s.withInput rest).withInp u) = .next t) ∨
        ((∃ e, decodeOp op payload = .error e) ∧ t = illegalWord ((s.withInput rest).withInp u)))))) := by
  by_cases hp : s.params.Admitted
  · refine ⟨hp, ?_⟩
    cases hi : s.input with
    | nil =>
      rw [step_empty s hp hi, awaitWord] at h
      split at h
      · rename_i hn
        exact .inl ⟨rfl, hn, by simpa using h.symm⟩
      · simp at h
    | cons w rest =>
      refine .inr ⟨w, rest, rfl, ?_⟩
      rw [step_word s w rest hp hi, takeWord] at h
      simp only [State.withInput_params, State.withInput_inp] at h
      split at h
      · rename_i u hu
        exact .inl ⟨u, hu, by simpa using h.symm⟩
      · rename_i op payload u hu
        refine .inr ⟨op, payload, u, hu, ?_⟩
        rw [execute] at h
        split at h
        · rename_i i hd; exact .inl ⟨i, hd, h⟩
        · rename_i e hd; exact .inr ⟨⟨e, hd⟩, by simpa using h.symm⟩
  · unfold step at h
    rw [if_neg hp] at h
    simp at h

end Sys2Proof.Machine
end

