-- ==== Sys2Proof/Laws/Units.lean ====
section
/-! SUPPORT. Laws of the three decoders and the aggregator: for each shared procedure, everything it can do, said once as a
list of guarded cases. -/

namespace Sys2Proof.Machine

/-! ### PPM -/

theorem ppmRecord_cases (p : Params) (width : U16) (u : Ppm) :
    (u.chIndex.toNat < p.ppmMaxChannels ∧
      ppmRecord p width u =
        { u with bank := u.bank.write u.sel u.chIndex.toNat width, chIndex := u.chIndex + 1 }) ∨
    (p.ppmMaxChannels ≤ u.chIndex.toNat ∧ ppmRecord p width u = u) := by
  by_cases h : u.chIndex.toNat < p.ppmMaxChannels
  · exact .inl ⟨h, by simp [ppmRecord, h]⟩
  · exact .inr ⟨by omega, by simp [ppmRecord, h]⟩

theorem ppmCloseFrame_cases (p : Params) (u : Ppm) :
    (p.ppmMinChannels ≤ u.chIndex.toNat ∧
      ppmCloseFrame p u =
        ({ u with count := u.chIndex, sel := !u.sel, newData := true, receiving := true, timeout := 0, chIndex := 0 },
          [noteFrame .ppm (u.chIndex.setWidth 16)])) ∨
    (u.chIndex.toNat < p.ppmMinChannels ∧ ppmCloseFrame p u = ({ u with chIndex := 0 }, [])) := by
  by_cases h : p.ppmMinChannels ≤ u.chIndex.toNat
  · exact .inl ⟨h, by simp [ppmCloseFrame, h, Ppm.publish]⟩
  · exact .inr ⟨by omega, by simp [ppmCloseFrame, h]⟩

/-- Everything an edge can do to the PPM decoder. -/
theorem ppmEdge_cases (p : Params) (c : CfgRecord) (t : U16) (r : Bool) (u : Ppm) :
    (ppmQualifies c r = false ∧ ppmEdge p c t r u = (u, [])) ∨
    (ppmQualifies c r = true ∧
      ((u.state = .wfs ∧ ppmEdge p c t r u = (ppmRearm p t (ppmThreshold p c) u, [])) ∨
      (u.state = .sd ∧ ppmEdge p c t r u = ({ ppmRearm p t (ppmThreshold p c) u with state := .rd }, [])) ∨
      (u.state = .rd ∧ (ticksSub p t u.lastEdge).toNat < (ppmThreshold p c).toNat ∧
        ppmEdge p c t r u = (ppmRecord p (ticksSub p t u.lastEdge) (ppmRearm p t (ppmThreshold p c) u), [])) ∨
      (u.state = .rd ∧ (ppmThreshold p c).toNat ≤ (ticksSub p t u.lastEdge).toNat ∧
        ppmEdge p c t r u =
          ((ppmCloseFrame p (ppmRearm p t (ppmThreshold p c) u)).1,
            (ppmCloseFrame p (ppmRearm p t (ppmThreshold p c) u)).2 ++ [noteSync .ppm])))) := by
  cases hq : ppmQualifies c r with
  | false => exact .inl ⟨rfl, by simp [ppmEdge, hq]⟩
  | true =>
    refine .inr ⟨rfl, ?_⟩
    cases hs : u.state with
    | wfs => exact .inl ⟨rfl, by simp [ppmEdge, hq, hs]⟩
    | sd => exact .inr (.inl ⟨rfl, by simp [ppmEdge, hq, hs]⟩)
    | rd =>
      by_cases hw : (ticksSub p t u.lastEdge).toNat < (ppmThreshold p c).toNat
      · exact .inr (.inr (.inl ⟨rfl, hw, by simp only [ppmEdge, hq, hs, ppmEdgeRd, hw, if_true]⟩))
      · exact .inr (.inr (.inr ⟨rfl, by omega, by simp only [ppmEdge, hq, hs, ppmEdgeRd, hw, if_true, if_false]⟩))

/-- Everything ALARM_PPM can do to the PPM decoder. -/
theorem ppmAlarm_cases (p : Params) (u : Ppm) :
    (u.alarmArmed = false ∧ ppmAlarm p u = (u, [])) ∨
    (u.alarmArmed = true ∧
      ((u.state = .wfs ∧ ppmAlarm p u = ({ u with alarmArmed := false, state := .sd }, [noteSync .ppm])) ∨
      (u.state = .sd ∧ ppmAlarm p u = ({ u with alarmArmed := false }, [])) ∨
      (u.state = .rd ∧
        ppmAlarm p u =
          ({ (ppmCloseFrame p { u with alarmArmed := false }).1 with state := .sd },
            (ppmCloseFrame p { u with alarmArmed := false }).2 ++ [noteSync .ppm])))) := by
  cases ha : u.alarmArmed with
  | false => exact .inl ⟨rfl, by simp [ppmAlarm, ha]⟩
  | true =>
    refine .inr ⟨rfl, ?_⟩
    cases hs : u.state <;> simp [ppmAlarm, ha, hs, ppmAlarmFire]

/-- Everything a TICK can do to the PPM decoder. -/
theorem ppmTick_cases (p : Params) (u : Ppm) (h : p.ppmTimeoutTicks < 2 ^ 8) :
    (p.ppmTimeoutTicks ≤ u.timeout.toNat ∧ ppmTick p u = (u, [])) ∨
    (u.timeout.toNat + 1 < p.ppmTimeoutTicks ∧ (u.timeout + 1).toNat = u.timeout.toNat + 1 ∧
      ppmTick p u = ({ u with timeout := u.timeout + 1 }, [])) ∨
    (u.timeout.toNat + 1 = p.ppmTimeoutTicks ∧ (u.timeout + 1).toNat = p.ppmTimeoutTicks ∧
      ppmTick p u = (ppmFullReset { u with timeout := u.timeout + 1 }, [noteError (some .ppm) .timeout])) := by
  rcases timeoutTick_cases p.ppmTimeoutTicks u.timeout h with ⟨a, e⟩ | ⟨a, b, e⟩ | ⟨a, b, e⟩
  · exact .inl ⟨a, by simp [ppmTick, e]⟩
  · exact .inr (.inl ⟨a, b, by simp [ppmTick, e]⟩)
  · exact .inr (.inr ⟨a, b, by simp [ppmTick, e]⟩)

/-! ### PCM -/

/-- The classification answers 0 to 7 (R250). -/
theorem pcmClassify_le (p : Params) (gap : U16) : pcmClassify p gap ≤ 7 := by
  have := List.countP_le_length (p := fun b => decide (b ≤ ticksToUs p gap)) (l := pcmBoundaries p)
  simpa [pcmClassify, pcmBoundaries] using this

/-- The bits of a symbol as numbers: `sym + lastBits - 3` modulo 256 (R264). -/
theorem pcmBits_toNat (sym : Nat) (lastBits : BitVec 2) (h : sym ≤ 7) :
    (pcmBits sym lastBits).toNat =
      if 3 ≤ sym + lastBits.toNat then sym + lastBits.toNat - 3 else sym + lastBits.toNat + 253 := by
  have key : ∀ k : Fin 8, ∀ b : BitVec 2, (pcmBits k.val b).toNat =
      if 3 ≤ k.val + b.toNat then k.val + b.toNat - 3 else k.val + b.toNat + 253 := by decide
  exact key ⟨sym, by omega⟩ lastBits

/-- A symbol is a desync exactly when `lastBits` does not allow it (R264). -/
theorem pcmBits_desync_iff (sym : Nat) (lastBits : BitVec 2) (h : sym ≤ 7) :
    3 < (pcmBits sym lastBits).toNat ↔ ¬ (3 ≤ sym + lastBits.toNat ∧ sym + lastBits.toNat ≤ 6) := by
  rw [pcmBits_toNat sym lastBits h]
  split <;> omega

/-- Everything a symbol can do behind the desync test (R263 to R270). -/
theorem pcmTake_cases (p : Params) (bits : BitVec 8) (u : Pcm) :
    (u.byteIndex.toNat < p.pcmDataBytes ∧ u.symInByte.toNat < 4 ∧
      pcmTake p bits u = ({ u with acc := (u.acc <<< 2) ||| bits, symInByte := u.symInByte + 1 }, [])) ∨
    (u.byteIndex.toNat < p.pcmDataBytes ∧ 4 ≤ u.symInByte.toNat ∧ bits = pcmChecksum u.acc ∧
      pcmTake p bits u =
        ({ u with
          bank := u.bank.write u.sel u.byteIndex.toNat u.acc, byteIndex := u.byteIndex + 1, symInByte := 0, acc := 0 },
          [])) ∨
    (u.byteIndex.toNat < p.pcmDataBytes ∧ 4 ≤ u.symInByte.toNat ∧ bits ≠ pcmChecksum u.acc ∧
      pcmTake p bits u = pcmError .pcmChecksum u) ∨
    (p.pcmDataBytes ≤ u.byteIndex.toNat ∧ pcmTake p bits u = pcmTrailer bits u) := by
  by_cases h : u.byteIndex.toNat < p.pcmDataBytes
  · by_cases h4 : u.symInByte.toNat < 4
    · exact .inl ⟨h, h4, by simp [pcmTake, h, h4, pcmData]⟩
    · by_cases hc : bits = pcmChecksum u.acc
      · exact .inr (.inl ⟨h, by omega, hc, by simp only [pcmTake, h, h4, pcmCheck, hc, if_true, if_false]⟩)
      · exact .inr (.inr (.inl ⟨h, by omega, hc, by simp only [pcmTake, h, h4, pcmCheck, hc, if_true, if_false]⟩))
  · exact .inr (.inr (.inr ⟨by omega, by simp [pcmTake, h]⟩))

/-- Everything a trailer symbol can do (R268, R270). -/
theorem pcmTrailer_cases (bits : BitVec 8) (u : Pcm) :
    (u.symInByte + 1 ≠ 2 ∧
      pcmTrailer bits u =
        ({ u with acc := ((u.acc <<< 2) ||| bits) &&& 0x0F, symInByte := u.symInByte + 1 }, [])) ∨
    (u.symInByte + 1 = 2 ∧
      pcmTrailer bits u =
        pcmFinish { u with acc := ((u.acc <<< 2) ||| bits) &&& 0x0F, symInByte := u.symInByte + 1 }) := by
  by_cases h : u.symInByte + 1 = 2
  · exact .inr ⟨h, by simp only [pcmTrailer, h, if_true]⟩
  · exact .inl ⟨h, by simp only [pcmTrailer, h, if_false]⟩

/-- Everything the end of a frame can do (R270). -/
theorem pcmFinish_cases (u : Pcm) :
    (u.acc = 0x0C ∧ pcmFinish u = pcmAccept 8 u) ∨
    (u.acc = 0x09 ∧ pcmFinish u = pcmAccept 10 (pcmRelocate u)) ∨
    (u.acc ≠ 0x0C ∧ u.acc ≠ 0x09 ∧ pcmFinish u = pcmError .pcmTrailer u) := by
  by_cases hc : u.acc = 0x0C
  · exact .inl ⟨hc, by simp [pcmFinish, hc]⟩
  · by_cases h9 : u.acc = 0x09
    · exact .inr (.inl ⟨h9, by simp [pcmFinish, h9]⟩)
    · exact .inr (.inr ⟨hc, h9, by simp only [pcmFinish, hc, h9, if_false]⟩)

/-- Everything an edge can do to the PCM decoder (R260). -/
theorem pcmEdge_cases (p : Params) (t : U16) (r : Bool) (u : Pcm) :
    (r = true ∧
      pcmEdge p t r u =
        ({ u with
            lastEdge := truncTicks p t,
            syncPending := decide (p.pcmSyncMinUs ≤ ticksToUs p (ticksSub p t u.lastEdge)) }, [])) ∨
    (r = false ∧ u.syncPending = true ∧
      pcmEdge p t r u = pcmSync { u with lastEdge := truncTicks p t, syncPending := false }) ∨
    (r = false ∧ u.syncPending = false ∧ u.state = .wfs ∧ pcmEdge p t r u = ({ u with lastEdge := truncTicks p t }, [])) ∨
    (r = false ∧ u.syncPending = false ∧ u.state ≠ .wfs ∧
      pcmEdge p t r u = pcmSymbol p (pcmClassify p (ticksSub p t u.lastEdge)) { u with lastEdge := truncTicks p t }) := by
  cases r with
  | true => exact .inl ⟨rfl, by simp [pcmEdge]⟩
  | false =>
    cases hp : u.syncPending with
    | true => exact .inr (.inl ⟨rfl, rfl, by simp [pcmEdge, hp]⟩)
    | false =>
      by_cases hs : u.state = .wfs
      · exact .inr (.inr (.inl ⟨rfl, rfl, hs, by simp [pcmEdge, hp, hs]⟩))
      · exact .inr (.inr (.inr ⟨rfl, rfl, hs, by simp [pcmEdge, hp, hs]⟩))

/-- Everything a TICK can do to the PCM decoder. -/
theorem pcmTick_cases (p : Params) (u : Pcm) (h : p.pcmTimeoutTicks < 2 ^ 8) :
    (p.pcmTimeoutTicks ≤ u.timeout.toNat ∧ pcmTick p u = (u, [])) ∨
    (u.timeout.toNat + 1 < p.pcmTimeoutTicks ∧ (u.timeout + 1).toNat = u.timeout.toNat + 1 ∧
      pcmTick p u = ({ u with timeout := u.timeout + 1 }, [])) ∨
    (u.timeout.toNat + 1 = p.pcmTimeoutTicks ∧ (u.timeout + 1).toNat = p.pcmTimeoutTicks ∧
      pcmTick p u = (pcmFullReset { u with timeout := u.timeout + 1 }, [noteError (some .pcm) .timeout])) := by
  rcases timeoutTick_cases p.pcmTimeoutTicks u.timeout h with ⟨a, e⟩ | ⟨a, b, e⟩ | ⟨a, b, e⟩
  · exact .inl ⟨a, by simp [pcmTick, e]⟩
  · exact .inr (.inl ⟨a, b, by simp [pcmTick, e]⟩)
  · exact .inr (.inr ⟨a, b, by simp [pcmTick, e]⟩)

/-- Relocation writes the active bank only, and in it the slots 6 to 9 only (R273). -/
theorem pcmRelocate_bank_read (u : Pcm) (n : Nat) (hs : u.bank.Sized n) (hn : 10 ≤ n) (b : Bool) (i : Nat) :
    (pcmRelocate u).bank.read b i =
      if b = u.sel then
        if i = 6 then u.bank.read (!u.sel) 6 else if i = 7 then u.bank.read (!u.sel) 7
        else if i = 8 then u.bank.read u.sel 6 else if i = 9 then u.bank.read u.sel 7 else u.bank.read b i
      else u.bank.read b i := by
  have copy (bk : Banks Byte) (h : bk.Sized n) (c : Bool) (j k : Nat) (hj : j < 10) (hk : k < 10) (d : Bool) (l : Nat) :
      (bk.copy c j u.sel k).read d l = if d = u.sel ∧ l = k then bk.read c j else bk.read d l :=
    Banks.copy_read bk c j u.sel k (by rw [h.side_length]; omega) (by rw [h.side_length]; omega) d l
  have h1 := (Banks.copy_sized u.bank u.sel 6 u.sel 8 n).mpr hs
  have h2 := (Banks.copy_sized _ u.sel 7 u.sel 9 n).mpr h1
  have h3 := (Banks.copy_sized _ (!u.sel) 6 u.sel 6 n).mpr h2
  have ne : ¬ (!u.sel) = u.sel := by cases u.sel <;> decide
  simp only [pcmRelocate, copy _ h3 _ 7 7 (by omega) (by omega), copy _ h2 _ 6 6 (by omega) (by omega),
    copy _ h1 _ 7 9 (by omega) (by omega), copy _ hs _ 6 8 (by omega) (by omega)]
  by_cases hb : b = u.sel
  · by_cases h6 : i = 6
    · simp [hb, h6, ne]
    · by_cases h7 : i = 7
      · simp [hb, h7, ne]
      · by_cases h8 : i = 8
        · simp [hb, h8]
        · by_cases h9 : i = 9
          · simp [hb, h9]
          · simp [hb, h6, h7, h8, h9]
  · simp [hb]

/-- Relocation keeps the sizes of the banks. -/
@[simp] theorem pcmRelocate_sized (u : Pcm) (n : Nat) : (pcmRelocate u).bank.Sized n ↔ u.bank.Sized n := by
  simp only [pcmRelocate, Banks.copy_sized]

/-! ### SRXL -/

/-- Everything a byte can do to the SRXL decoder (R303). -/
theorem srxlByte_cases (p : Params) (d : Byte) (t : U16) (u : Srxl) :
    (u.state = .wfs ∧ srxlByte p d t u = .ok (srxlRearm p t u, [])) ∨
    (u.state = .sd ∧ srxlByte p d t u = .ok (srxlHeader d (srxlRearm p t u))) ∨
    (u.state = .rd ∧ srxlByte p d t u = srxlStore d (srxlRearm p t u)) := by
  cases hs : u.state <;> simp [srxlByte, hs]

/-- Everything a header byte can do (R305). -/
theorem srxlHeader_cases (d : Byte) (u : Srxl) :
    (d = 0xA1 ∧
      srxlHeader d u = ({ u with expected := 27, bank := u.bank.write u.sel 0 d, byteIndex := 1, state := .rd }, [])) ∨
    (d = 0xA2 ∧
      srxlHeader d u = ({ u with expected := 35, bank := u.bank.write u.sel 0 d, byteIndex := 1, state := .rd }, [])) ∨
    (d ≠ 0xA1 ∧ d ≠ 0xA2 ∧ srxlHeader d u = srxlError .srxlHeader u) := by
  by_cases h1 : d = 0xA1
  · exact .inl ⟨h1, by simp [srxlHeader, srxlFrameLength, h1]⟩
  · by_cases h2 : d = 0xA2
    · exact .inr (.inl ⟨h2, by simp [srxlHeader, srxlFrameLength, h2]⟩)
    · exact .inr (.inr ⟨h1, h2, by simp only [srxlHeader, srxlFrameLength, h1, h2, if_false]⟩)

/-- Everything a byte of a frame can do (R306). -/
theorem srxlStore_cases (d : Byte) (u : Srxl) :
    ((u.bank.side u.sel).length ≤ u.byteIndex.toNat ∧ srxlStore d u = .error (.indexOutOfRange .srxlBank u.byteIndex.toNat)) ∨
    (u.byteIndex.toNat < (u.bank.side u.sel).length ∧ u.byteIndex + 1 ≠ u.expected ∧
      srxlStore d u =
        .ok ({ u with bank := u.bank.write u.sel u.byteIndex.toNat d, byteIndex := u.byteIndex + 1 }, [])) ∨
    (u.byteIndex.toNat < (u.bank.side u.sel).length ∧ u.byteIndex + 1 = u.expected ∧
      srxlStore d u =
        srxlCheck { u with bank := u.bank.write u.sel u.byteIndex.toNat d, byteIndex := u.byteIndex + 1 }) := by
  by_cases h : u.byteIndex.toNat < (u.bank.side u.sel).length
  · by_cases he : u.byteIndex + 1 = u.expected
    · exact .inr (.inr ⟨h, he, by simp only [srxlStore, h, he, if_true]⟩)
    · exact .inr (.inl ⟨h, he, by simp only [srxlStore, h, he, if_true, if_false]⟩)
  · exact .inl ⟨by omega, by simp [srxlStore, h]⟩

/-- Everything the CRC check can do (R311). -/
theorem srxlCheck_cases (u : Srxl) :
    (∃ i, srxlCheck u = .error (.indexOutOfRange .srxlBank i)) ∨
    (2 ≤ u.expected.toNat ∧ ∃ hi lo, u.bank.read u.sel (u.expected.toNat - 2) = some hi ∧
      u.bank.read u.sel (u.expected.toNat - 1) = some lo ∧
      ((crc16 ((u.bank.side u.sel).take (u.expected.toNat - 2)) = hi ++ lo ∧
        srxlCheck u = .ok (srxlAccept (if u.expected = 27 then 12 else 16) u)) ∨
      (crc16 ((u.bank.side u.sel).take (u.expected.toNat - 2)) ≠ hi ++ lo ∧
        srxlCheck u = .ok (srxlError .srxlCrc u)))) := by
  unfold srxlCheck
  split
  · exact .inl ⟨_, rfl⟩
  · rename_i h2
    split
    · rename_i hi lo hhi hlo
      refine .inr ⟨by omega, hi, lo, hhi, hlo, ?_⟩
      split
      · rename_i hc; exact .inl ⟨hc, rfl⟩
      · rename_i hc; exact .inr ⟨hc, rfl⟩
    · exact .inl ⟨_, rfl⟩

/-- A frame length the bank holds is checked without a fault (R311). -/
theorem srxlCheck_ok (u : Srxl) (h2 : 2 ≤ u.expected.toNat) (h35 : u.expected.toNat ≤ (u.bank.side u.sel).length) : ∃ r, srxlCheck u = .ok r := by
  obtain ⟨hi, hhi⟩ := (Banks.read_eq_some_iff u.bank u.sel (u.expected.toNat - 2)).mpr (by omega)
  obtain ⟨lo, hlo⟩ := (Banks.read_eq_some_iff u.bank u.sel (u.expected.toNat - 1)).mpr (by omega)
  have h : ¬ u.expected.toNat < 2 := by omega
  simp only [srxlCheck, h, hhi, hlo, if_false]
  split <;> exact ⟨_, rfl⟩

/-- Everything ALARM_SRXL can do to the SRXL decoder (R301, R307). -/
theorem srxlAlarm_cases (u : Srxl) :
    (u.alarmArmed = false ∧ srxlAlarm u = (u, [])) ∨
    (u.alarmArmed = true ∧
      ((u.state = .wfs ∧ srxlAlarm u = ({ u with alarmArmed := false, state := .sd }, [noteSync .srxl])) ∨
      (u.state = .sd ∧ srxlAlarm u = ({ u with alarmArmed := false }, [])) ∨
      (u.state = .rd ∧
        srxlAlarm u =
          ({ u with alarmArmed := false, byteIndex := 0, expected := 0, state := .sd },
            [noteError (some .srxl) .srxlSyncLost, noteSync .srxl])))) := by
  cases ha : u.alarmArmed with
  | false => exact .inl ⟨rfl, by simp [srxlAlarm, ha]⟩
  | true =>
    refine .inr ⟨rfl, ?_⟩
    cases hs : u.state <;> simp [srxlAlarm, ha, hs, srxlAlarmFire, srxlClearCounters]

/-- Everything a TICK can do to the SRXL decoder. -/
theorem srxlTick_cases (p : Params) (u : Srxl) (h : p.srxlTimeoutTicks < 2 ^ 8) :
    (p.srxlTimeoutTicks ≤ u.timeout.toNat ∧ srxlTick p u = (u, [])) ∨
    (u.timeout.toNat + 1 < p.srxlTimeoutTicks ∧ (u.timeout + 1).toNat = u.timeout.toNat + 1 ∧
      srxlTick p u = ({ u with timeout := u.timeout + 1 }, [])) ∨
    (u.timeout.toNat + 1 = p.srxlTimeoutTicks ∧ (u.timeout + 1).toNat = p.srxlTimeoutTicks ∧
      srxlTick p u = (srxlFullReset { u with timeout := u.timeout + 1 }, [noteError (some .srxl) .timeout])) := by
  rcases timeoutTick_cases p.srxlTimeoutTicks u.timeout h with ⟨a, e⟩ | ⟨a, b, e⟩ | ⟨a, b, e⟩
  · exact .inl ⟨a, by simp [srxlTick, e]⟩
  · exact .inr (.inl ⟨a, b, by simp [srxlTick, e]⟩)
  · exact .inr (.inr ⟨a, b, by simp [srxlTick, e]⟩)

/-! ### The aggregator -/

/-- Where the channel is inside the bank of the selected decoder, its width is read without a fault (R362). -/
theorem aggInputUs_ok (s : State) (i : Nat)
    (h : match s.agg.source with
      | .none => True
      | .ppm => i < (s.ppm.bank.side (!s.ppm.sel)).length
      | .pcm => i < (s.pcm.bank.side (!s.pcm.sel)).length
      | .srxl => 2 + 2 * i < (s.srxl.bank.side (!s.srxl.sel)).length) : ∃ us, aggInputUs s i = .ok us := by
  cases hs : s.agg.source with
  | none => exact ⟨0, by simp [aggInputUs, hs]⟩
  | ppm =>
    rw [hs] at h
    obtain ⟨v, hv⟩ := (Banks.read_eq_some_iff s.ppm.bank (!s.ppm.sel) i).mpr h
    simp only [aggInputUs, hs, (Banks.readOrFault_eq_ok_iff _ _ _ _ _).mpr hv]
    exact ⟨_, rfl⟩
  | pcm =>
    rw [hs] at h
    obtain ⟨v, hv⟩ := (Banks.read_eq_some_iff s.pcm.bank (!s.pcm.sel) i).mpr h
    simp only [aggInputUs, hs, (Banks.readOrFault_eq_ok_iff _ _ _ _ _).mpr hv]
    exact ⟨_, rfl⟩
  | srxl =>
    rw [hs] at h
    simp only at h
    obtain ⟨hi, hhi⟩ := (Banks.read_eq_some_iff s.srxl.bank (!s.srxl.sel) (1 + 2 * i)).mpr (by omega)
    obtain ⟨lo, hlo⟩ := (Banks.read_eq_some_iff s.srxl.bank (!s.srxl.sel) (2 + 2 * i)).mpr h
    simp only [aggInputUs, hs, srxlRaw, (Banks.readOrFault_eq_ok_iff _ _ _ _ _).mpr hhi,
      (Banks.readOrFault_eq_ok_iff _ _ _ _ _).mpr hlo]
    exact ⟨_, rfl⟩

/-- Everything the output value can come to (R360). -/
theorem aggOutput_cases (s : State) (o : Nat) :
    (s.cfg.mapping[o]? = none ∧ aggOutput s o = .error (.indexOutOfRange .cfgRec (14 + o))) ∨
    ∃ m, s.cfg.mapping[o]? = some m ∧
      (((m = 0 ∨ s.agg.source = .none ∨ aggCount s ≤ m.toNat - 1) ∧ aggOutput s o = .ok neutralOutput) ∨
      (¬ (m = 0 ∨ s.agg.source = .none ∨ aggCount s ≤ m.toNat - 1) ∧ s.cfg.pulseWidthRange = 0 ∧
        aggOutput s o = .error .zeroPulseWidthRange) ∨
      (¬ (m = 0 ∨ s.agg.source = .none ∨ aggCount s ≤ m.toNat - 1) ∧ s.cfg.pulseWidthRange ≠ 0 ∧
        aggOutput s o =
          (aggInputUs s (m.toNat - 1)).map fun pw =>
            scaleOutput pw s.cfg.pulseWidthCenter.toNat s.cfg.pulseWidthRange.toNat (s.cfg.invertMask.getLsbD o))) := by
  cases hm : s.cfg.mapping[o]? with
  | none => exact .inl ⟨rfl, by simp only [aggOutput, hm]⟩
  | some m =>
    refine .inr ⟨m, rfl, ?_⟩
    by_cases hn : m = 0 ∨ s.agg.source = .none ∨ aggCount s ≤ m.toNat - 1
    · exact .inl ⟨hn, by simp only [aggOutput, hm, if_pos hn]⟩
    · by_cases hr : s.cfg.pulseWidthRange = 0
      · exact .inr (.inl ⟨hn, hr, by simp only [aggOutput, hm, if_neg hn, if_pos hr]⟩)
      · exact .inr (.inr ⟨hn, hr, by simp only [aggOutput, hm, if_neg hn, if_neg hr]⟩)

/-! ### Notifications of an edge -/

/-- Every notification of an edge from the PPM decoder has the decoder field 1 (R148). -/
theorem ppmEdge_notes (p : Params) (c : CfgRecord) (t : U16) (r : Bool) (u : Ppm) :
    ∀ n ∈ (ppmEdge p c t r u).2, n.extractLsb' 24 2 = 1#2 := by
  have hf : ∀ v, (noteFrame .ppm v).extractLsb' 24 2 = 1#2 := fun c => noteWord_decoder _ _ _ _
  have hs : (noteSync .ppm).extractLsb' 24 2 = 1#2 := noteWord_decoder _ _ _ _
  rcases ppmEdge_cases p c t r u with ⟨_, e⟩ | ⟨_, ⟨_, e⟩ | ⟨_, e⟩ | ⟨_, _, e⟩ | ⟨_, _, e⟩⟩ <;> rw [e]
  · simp
  · simp
  · simp
  · simp
  · generalize ppmRearm _ _ _ _ = u'
    rcases ppmCloseFrame_cases p u' with ⟨_, e⟩ | ⟨_, e⟩ <;> rw [e]
    · intro n hn; simp only [List.cons_append, List.nil_append, List.mem_cons, List.not_mem_nil, or_false] at hn
      rcases hn with rfl | rfl
      · exact hf _
      · exact hs
    · intro n hn; simp only [List.nil_append, List.mem_cons, List.not_mem_nil, or_false] at hn
      subst hn; exact hs

/-- Every notification of an edge from the PCM decoder has the decoder field 2 (R148). -/
theorem pcmEdge_notes (p : Params) (t : U16) (r : Bool) (u : Pcm) :
    ∀ n ∈ (pcmEdge p t r u).2, n.extractLsb' 24 2 = 2#2 := by
  have hd : ∀ c, (noteError (some .pcm) c).extractLsb' 24 2 = 2#2 := fun c => noteWord_decoder _ _ _ _
  have hf : ∀ v, (noteFrame .pcm v).extractLsb' 24 2 = 2#2 := fun c => noteWord_decoder _ _ _ _
  rcases pcmEdge_cases p t r u with ⟨_, e⟩ | ⟨_, _, e⟩ | ⟨_, _, _, e⟩ | ⟨_, _, _, e⟩ <;> rw [e]
  · simp
  · simp only [pcmSync, List.mem_singleton]; rintro n rfl; exact noteWord_decoder _ _ _ _
  · simp
  · unfold pcmSymbol
    split
    · simp only [pcmError, List.mem_singleton]; rintro n rfl; exact hd _
    · generalize pcmBits _ _ = b
      generalize ({ pcmBegin _ with lastBits := _ } : Pcm) = u'
      rcases pcmTake_cases p b u' with ⟨_, _, e⟩ | ⟨_, _, _, e⟩ | ⟨_, _, _, e⟩ | ⟨_, e⟩ <;> rw [e]
      · simp
      · simp
      · simp only [pcmError, List.mem_singleton]; rintro n rfl; exact hd _
      · rcases pcmTrailer_cases b u' with ⟨_, e⟩ | ⟨_, e⟩ <;> rw [e]
        · simp
        · generalize ({ u' with acc := _, symInByte := _ } : Pcm) = u''
          rcases pcmFinish_cases u'' with ⟨_, e⟩ | ⟨_, e⟩ | ⟨_, _, e⟩ <;> rw [e] <;>
            simp only [pcmAccept, pcmError, List.mem_singleton]
          · rintro n rfl; exact hf _
          · rintro n rfl; exact hf _
          · rintro n rfl; exact hd _

end Sys2Proof.Machine
end

