-- ==== Sys2Proof/Tests/Slice0.lean ====
section
/-! SUPPORT. Tests: small theorems about one step or one operation. Expected values are the spec's own, from the vectors of
`95_test_vectors.md` (L1, L2) and the rules named at each test; none is the model's own answer pasted back. -/

open Sys2Proof.Machine Sys2Proof.Claims

namespace Sys2Proof.Tests

/-! ### Helpers -/

/-- The next state of an outcome, if it is one. -/
def next? : Host.Outcome State Fault Refusal → Option State
  | .next s => some s
  | _ => none

/-- What an instruction leaves of one field. -/
def after {α : Type} (i : Instr) (s : State) (f : State → α) : Option α := (next? (exec i s)).map f

/-- The parameters of R10. -/
abbrev dp : Params := Params.default
/-- The reset state. -/
abbrev r0 : State := State.reset

/-- PPM in ReceivingData at the start setup `PPM_RD` of `95_test_vectors.md`, with some channels already counted. -/
def ppmRd (ch : BitVec 4) : State :=
  { r0 with
    ppm := { r0.ppm with state := .rd, lastEdge := 8000, chIndex := ch, alarmArmed := true, alarmAt := 15000 } }

/-- PPM with four published channels of one width, PPM selected as the source (the "PPM source" setup). -/
def ppmSource (width : U16) : State :=
  { r0 with
    ppm := { r0.ppm with
      state := .sd, bank := ⟨[width, width, width, width, 0, 0, 0, 0, 0], .replicate 9 0⟩, sel := true, count := 4,
      newData := true, receiving := true, timeout := 0 }
    agg := ⟨.ppm, 1⟩ }

/-- PCM inside a frame: `k` checked bytes, `n` symbols of the next one with the accumulator `acc`. -/
def pcmRd (k : BitVec 4) (n : BitVec 3) (acc : Byte) (last : BitVec 2) : State :=
  { r0 with
    pcm := { r0.pcm with state := .rd, lastEdge := 4400, byteIndex := k, symInByte := n, acc := acc, lastBits := last } }

/-- PCM with ten published channels, PCM selected as the source. -/
def pcmSource : State :=
  { r0 with
    pcm := { r0.pcm with
      sel := true, count := 10, newData := true, receiving := true, timeout := 0,
      bank := ⟨[0x00, 0xFF, 0x80, 0x55, 0xAA, 0x12, 0x01, 0x7F, 0x00, 0x00], .replicate 10 0⟩ }
    agg := ⟨.pcm, 2⟩ }

/-- The bytes of the frame F_A2 of `95_test_vectors.md`, its CRC behind it. -/
def frameA2 : List Byte :=
  [0xA2, 0x08, 0x00, 0x00, 0x00, 0x0F, 0xFF, 0x0B, 0x6D, 0xF4, 0x00, 0x0C, 0x00, 0x04, 0x00, 0x00, 0x64, 0x08, 0x00,
    0x08, 0x00, 0x08, 0x00, 0x08, 0x00, 0x08, 0x00, 0x08, 0x00, 0x08, 0x00, 0x08, 0x00, 0x37, 0xBB]

/-- A bank that holds some bytes. -/
def srxlBank (bs : List Byte) : List Byte := (bs ++ List.replicate 35 0).take 35

/-- SRXL in a frame of `len` bytes, `k` of them stored, the bytes of F_A2 in the active bank. -/
def srxlRd (k len : BitVec 6) : State :=
  { r0 with
    srxl := { r0.srxl with
      state := .rd, byteIndex := k, expected := len, bank := ⟨srxlBank (frameA2.take 34), .replicate 35 0⟩ } }

/-- SRXL in SyncDetected. -/
def srxlSd : State := { r0 with srxl := { r0.srxl with state := .sd } }

/-- SRXL with the published frame F_A2, SRXL selected as the source. -/
def srxlSource : State :=
  { r0 with
    srxl := { r0.srxl with
      bank := ⟨srxlBank frameA2, .replicate 35 0⟩, sel := true, count := 16, newData := true, receiving := true,
      timeout := 0 }
    agg := ⟨.srxl, 4⟩ }

/-- The default record with one byte replaced. -/
def recordWith (k : Nat) (v : Byte) : List Byte := (encodeRecord (cfgDefaults dp)).set k v

/-! ### WellFormed: an ill-formed term for each check -/

theorem test_cfgWrite_needs_payload : ¬ (Instr.cfgWrite []).WellFormed dp := by decide
theorem test_cfgWrite_payload_is_whole_words : ¬ (Instr.cfgWrite (List.replicate 22 0)).WellFormed dp := by decide
theorem test_cfgLoad_payload_not_too_long : ¬ (Instr.cfgLoad (some (List.replicate 28 0))).WellFormed dp := by decide
theorem test_cfgLoad_without_record_fits : (Instr.cfgLoad none).WellFormed dp := by decide

/-! ### Decoding (the words are those of L2.1, and R142, R144 for the reserved rows) -/

theorem test_decode_events :
    ∀ x ∈ ([(0x08010BB8, .edge true 3000), (0x08000190, .edge false 400), (0x10A20064, .uartByte 0xA2 100),
      (0x18000000, .alarmPpm), (0x20000000, .alarmSrxl), (0x28000000, .tick)] : List (Word × Instr)),
      decodeOp x.1 [] = .ok x.2 := by decide

theorem test_decode_aggregator :
    ∀ x ∈ ([(0x40000000, .update), (0x48000000, .getSource), (0x50000000, .getCount), (0x5800000F, .getInput 15),
      (0x600000FF, .getOutput 255), (0x68000003, .getDecoderStatus 3), (0x70000002, .clearNewData 2)] :
      List (Word × Instr)), decodeOp x.1 [] = .ok x.2 := by decide

theorem test_decode_configuration_and_system :
    ∀ x ∈ ([(0x80000000, .cfgRead), (0x88000000, .cfgWrite []), (0x90000000, .cfgDefault), (0x98000000, .cfgSave),
      (0xA0000000, .cfgLoad none), (0xA0000001, .cfgLoad (some [])), (0xF8000000, .reset)] : List (Word × Instr)),
      decodeOp x.1 [] = .ok x.2 := by decide

set_option maxRecDepth 10000 in
theorem test_decode_reserved_below_0x16 :
    ∀ x ∈ ([(0x00000000, .reservedOp00 0), (0x30000001, .reservedOp06 1), (0x3FFFFFFF, .reservedOp07 0x7FFFFFF),
      (0x78000000, .reservedOp0F 0), (0xA8000000, .reservedOp15 0)] : List (Word × Instr)), decodeOp x.1 [] = .ok x.2 := by decide

theorem test_decode_reserved_from_0x16 :
    ∀ x ∈ ([(0xB0000000, .reservedOp16 0), (0xB8000000, .reservedOp17 0), (0xC0000000, .reservedOp18 0), (0xC8000000, .reservedOp19 0),
      (0xD0000000, .reservedOp1A 0), (0xD8000000, .reservedOp1B 0), (0xE0000000, .reservedOp1C 0),
      (0xE8000000, .reservedOp1D 0), (0xF0000000, .reservedOp1E 0)] : List (Word × Instr)),
      decodeOp x.1 [] = .ok x.2 := by decide

/-- E7 to E15: a reserved bit of a defined opcode is never ignored. -/
theorem test_reserved_bits_are_illegal :
    ([0xF8000001, 0x08100000, 0x08020000, 0x28000001, 0xA0000002, 0xA0000003, 0x68000004, 0x58000100, 0x40000001,
      0x11000000] : List Word).all
      (fun w => match decodeOp w [] with | .error .reservedBitSet => true | _ => false) = true := by decide

/-- The words of the vector K1 decode to its record. -/
theorem test_decode_cfgWrite_words :
    decode 6 [0x88000000, 0x0DAC0001, 0x000005DC, 0x00008000, 0x02010000, 0x06050403, 0x00000807, 0x28000000] =
      .ok (.cfgWrite [0x01, 0x00, 0xAC, 0x0D, 0xDC, 0x05, 0x00, 0x00, 0x00, 0x80, 0x00, 0x00, 0x00, 0x00, 0x01, 0x02,
        0x03, 0x04, 0x05, 0x06, 0x07, 0x08, 0x00, 0x00], [0x28000000]) := by decide

theorem test_decodeTableWord_edge : decodeTableWord 32 0x08010BB8 = some (.edge true 3000) := by decide
theorem test_decodeTableWord_cfgWrite :
    decodeTableWord 32 0x88000000 = some (.cfgWrite (List.replicate 24 0)) := by decide

/-! ### Steps -/

theorem test_withFetchWord_runs_reset :
    (next? (step (r0.withFetchWord 32 0xF8000000))).map (fun s => s.responses) = some [0] := by decide

/-- The last payload word arrives, and CFG_WRITE refuses the record of zeros (R411). -/
theorem test_withFetchWord_runs_cfgWrite :
    (next? (step (r0.withFetchWord 32 0x88000000))).map (fun s => (s.responses, s.inp)) =
      some ([0x03000000], ⟨0, 0x88000000, List.replicate 24 0⟩) := by decide

/-- E17: the first payload word is data, whatever it spells. -/
theorem test_payload_word_is_not_decoded :
    (next? (step { r0 with inp := { r0.inp with need := 6, op := 0x88000000 }, input := [0xF8000000] })).map
      (fun s => (s.inp.need, s.inp.buf.take 5, s.responses)) = some (5, [0x00, 0x00, 0x00, 0xF8, 0x00], []) := by decide

/-- E7. -/
theorem test_illegal_word_step :
    (next? (step { r0 with input := [0xF8000001] })).map (fun s => (s.responses, s.notifications, s.ppm)) =
      some ([0x01000000], [0x30410000], r0.ppm) := by decide

/-- A parameter set that makes the sync threshold overflow is refused (`93_implementation_defined.md` item 6). -/
theorem test_overflowing_parameters_refused :
    next? (step { r0 with params := { dp with ticksPerUs := 14 } }) = none := by decide

/-- Another admitted parameter set: 15-bit ticks at one tick per µs, and larger banks (R10). -/
def otherParams : Params :=
  { dp with tickBits := 15, ticksPerUs := 1, ppmMaxChannels := 12, pcmBankSize := 12, pcmDataBytes := 9, srxlBankSize := 40 }

theorem test_other_sizes_admitted : otherParams.Admitted := by decide

/-- R10: a gap across the wrap of a 15-bit tick count, recorded as the tenth channel of a 12-channel bank. -/
theorem test_other_sizes_are_arguments :
    after (.edge true 5)
      { State.powerOn otherParams with
        ppm := { Ppm.reset otherParams with state := .rd, lastEdge := 32760, chIndex := 9 } }
      (fun s => (s.ppm.chIndex, s.ppm.bank.read false 9, s.ppm.bank.read false 12, s.ppm.alarmAt)) =
      some (10, some 13, none, 3505) := by decide

/-! ### EDGE and ALARM_PPM -/

/-- P1. -/
theorem test_edge_arms_the_alarm :
    after (.edge true 0) r0 (fun s => (s.ppm.state, s.ppm.alarmArmed, s.ppm.alarmAt)) = some (.wfs, true, 7000) := by
  decide

/-- R207, P7: the comparison with the threshold is strict. -/
theorem test_edge_gap_of_6999_is_a_channel :
    after (.edge true 14999) (ppmRd 4) (fun s => (s.ppm.chIndex, s.ppm.bank.read false 4, s.notifications)) =
      some (5, some 6999, []) := by decide

/-- P5. -/
theorem test_alarmPpm_publishes :
    after .alarmPpm (ppmRd 4) (fun s => (s.ppm.state, s.ppm.count, s.ppm.sel, s.notifications)) =
      some (.sd, 4, true, [0x21000004, 0x11000000]) := by decide

/-- P4. -/
theorem test_alarmPpm_drops_three_channels :
    after .alarmPpm (ppmRd 3) (fun s => (s.ppm.state, s.ppm.count, s.ppm.sel, s.notifications)) =
      some (.sd, 0, false, [0x11000000]) := by decide

/-! ### EDGE: PCM -/

/-- The classification table of L2.3. -/
theorem test_pcm_classification :
    ([0, 1899, 1900, 2179, 2180, 2459, 2460, 2739, 2740, 3019, 3020, 3299, 3300, 3579, 3580, 65535] : List U16).map
      (pcmClassify dp) = [0, 0, 1, 1, 2, 2, 3, 3, 4, 4, 5, 5, 6, 6, 7, 7] := by decide

/-- The check pairs of L2.3. -/
theorem test_pcm_check_pairs :
    ([0x00, 0xFF, 0x80, 0x55, 0xAA, 0x12, 0x01, 0x7F, 0x40, 0x03] : List Byte).map pcmChecksum =
      [3, 3, 1, 3, 3, 0, 2, 1, 2, 0] := by decide

/-- The symbols of the frame F_C. -/
theorem test_pcm_frame_symbols :
    pcmFrameSymbols [0x00, 0xFF, 0x80, 0x55, 0xAA, 0x12, 0x01, 0x7F] 0xC =
      [3, 3, 3, 3, 6, 3, 3, 3, 3, 3, 2, 1, 3, 3, 4, 3, 3, 3, 3, 5, 2, 3, 3, 3, 4, 0, 4, 2, 5, 1, 3, 3, 3, 4, 4,
        2, 5, 3, 3, 1, 5, 0] := by decide

/-- C8: symbol 7 is a desync. -/
theorem test_pcm_desync :
    after (.edge false 8000) (pcmRd 0 0 0 0) (fun s => (s.pcm.state, s.notifications)) = some (.wfs, [0x32100000]) := by
  decide

/-! ### UART_BYTE and ALARM_SRXL -/

/-- X3. -/
theorem test_uartByte_header :
    after (.uartByte 0xA2 100) srxlSd (fun s => (s.srxl.state, s.srxl.byteIndex, s.srxl.expected, s.srxl.alarmAt)) =
      some (.rd, 1, 35, 10100) := by decide

set_option maxRecDepth 10000 in
/-- X4: the last byte of F_A2. -/
theorem test_uartByte_last_byte :
    after (.uartByte 0xBB 0) (srxlRd 34 35) (fun s => (s.srxl.state, s.srxl.count, s.srxl.sel, s.notifications)) =
      some (.wfs, 16, true, [0x23000010]) := by decide

set_option maxRecDepth 10000 in
/-- The CRC check values of L2.4. -/
theorem test_crc_check_string : crc16 [0x31, 0x32, 0x33, 0x34, 0x35, 0x36, 0x37, 0x38, 0x39] = 0x31C3 := by decide
theorem test_crc_one_byte : crc16 [0xA2] = 0x95A8 := by decide

/-- X9. -/
theorem test_alarmSrxl_in_frame :
    after .alarmSrxl { srxlRd 10 35 with srxl := { (srxlRd 10 35).srxl with alarmArmed := true } }
      (fun s => (s.srxl.state, s.srxl.byteIndex, s.notifications)) = some (.sd, 0, [0x33220000, 0x13000000]) := by decide

/-- X2. -/
theorem test_alarmSrxl_finds_sync :
    after .alarmSrxl { r0 with srxl := { r0.srxl with alarmArmed := true } }
      (fun s => (s.srxl.state, s.srxl.alarmArmed, s.notifications)) = some (.sd, false, [0x13000000]) := by decide

/-! ### The aggregator -/

/-- L1.17. -/
theorem test_update_selects_pcm :
    after .update { pcmSource with agg := ⟨.none, 0⟩ } (fun s => (s.agg, s.responses)) = some (⟨.pcm, 2⟩, [2]) := by decide

/-- R357: the decoder that begins to receive wins over the fixed priority. -/
theorem test_update_last_receiving :
    after .update
      { srxlSource with
        params := { dp with sourceSelect := .lastReceiving }, ppm := (ppmSource 3000).ppm, agg := ⟨.ppm, 1⟩ }
      (fun s => (s.agg, s.responses)) = some (⟨.srxl, 5⟩, [3]) := by decide

theorem test_getSource : after .getSource (ppmSource 3000) (fun s => s.responses) = some [1] := by decide
/-- G15. -/
theorem test_getCount : after .getCount (ppmSource 4000) (fun s => s.responses) = some [4] := by decide
/-- G2. -/
theorem test_getInput_ppm : after (.getInput 0) (ppmSource 2998) (fun s => s.responses) = some [0x5DB] := by decide
/-- G21: the bytes F4 00 are raw 0x400 after masking. -/
theorem test_getInput_srxl : after (.getInput 4) srxlSource (fun s => s.responses) = some [0x47E] := by decide
/-- G25. -/
theorem test_getInput_pcm : after (.getInput 1) pcmSource (fun s => s.responses) = some [0x865] := by decide
/-- G9, G11: an inverted output, and a mapping beyond the count. -/
theorem test_getOutput_inverted :
    after (.getOutput 0) { ppmSource 4000 with cfg := { r0.cfg with invertMask := 1 } } (fun s => s.responses) = some [0] := by
  decide
theorem test_getOutput_beyond_count : after (.getOutput 4) (ppmSource 4000) (fun s => s.responses) = some [0x80] := by decide

/-- The scaling table of L2.5.2 where truncation, saturation and inversion show. -/
theorem test_output_scaling :
    scaleOutput 1499 1500 500 false = 128 ∧ scaleOutput 1496 1500 500 false = 127 ∧ scaleOutput 2000 1500 500 false = 255 ∧
    scaleOutput 0 1500 500 false = 0 ∧ scaleOutput 1000 1500 500 true = 255 ∧ scaleOutput 1800 2000 1000 false = 103 := by
  decide

/-- The correction table of L2.5.3. -/
theorem test_ppm_correction :
    ppmCorrectedUs dp { r0.cfg with clockCorrection := 36045 } 3000 = 1650 ∧
    ppmCorrectedUs dp { r0.cfg with clockCorrection := 65535 } 65535 = 65533 := by decide

/-- G17. -/
theorem test_getDecoderStatus : after (.getDecoderStatus 1) (ppmSource 4000) (fun s => s.responses) = some [0x40D] := by decide
theorem test_clearNewData :
    after (.clearNewData 1) (ppmSource 4000) (fun s => (s.ppm.newData, s.ppm.receiving, s.responses)) =
      some (false, true, [0]) := by decide

/-! ### The configuration -/

/-- K18, L1.24. -/
theorem test_cfgRead :
    after .cfgRead r0 (fun s => s.responses) =
      some [0x00000000, 0x0DAC0001, 0x01F405DC, 0x00008000, 0x02010000, 0x06050403, 0x00000807] := by decide

/-- K3 and K5: the lower bound of `minSyncWidth` is inclusive. -/
theorem test_cfgWrite_bound_is_inclusive :
    after (.cfgWrite ((recordWith 2 0xD0).set 3 0x07)) r0 (fun s => (s.cfg.minSyncWidth, s.responses)) =
      some (2000, [0]) := by decide
theorem test_cfgWrite_refused_keeps_cfg :
    after (.cfgWrite ((recordWith 2 0xCF).set 3 0x07)) r0 (fun s => (s.cfg, s.responses, s.notifications)) =
      some (r0.cfg, [0x03000000], [0x30400000]) := by decide

/-- K12: a mapping above `MAX_INPUT_CHANNELS` is not valid. -/
theorem test_cfgValid_mapping : cfgValid dp (recordWith 14 16) = true ∧ cfgValid dp (recordWith 14 17) = false := by decide

/-- K16: CFG_LOAD without a record gives the defaults. -/
theorem test_cfgLoad_without_record :
    after (.cfgLoad none) { r0 with cfg := { r0.cfg with minSyncWidth := 3000 } } (fun s => s.cfg.minSyncWidth) =
      some 3500 := by decide
/-- K15. -/
theorem test_cfgLoad_refused_gives_defaults :
    after (.cfgLoad (some (recordWith 0 2))) { r0 with cfg := { r0.cfg with minSyncWidth := 3000 } }
      (fun s => (s.cfg.minSyncWidth, s.responses, s.notifications)) = some (3500, [0x03000000], [0x30400000]) := by decide

theorem test_cfgDefault :
    after .cfgDefault { r0 with cfg := { r0.cfg with flags := 1 } } (fun s => (s.cfg.flags, s.responses)) = some (0, [0]) := by
  decide

/-- L1.27. -/
theorem test_cfgSave :
    after .cfgSave r0 (fun s => (s.store, s.responses)) =
      some ([[0x01, 0x00, 0xAC, 0x0D, 0xDC, 0x05, 0xF4, 0x01, 0x00, 0x80, 0x00, 0x00, 0x00, 0x00, 0x01, 0x02, 0x03, 0x04,
        0x05, 0x06, 0x07, 0x08]], [0]) := by decide

/-! ### TICK, RESET, reserved opcodes -/

/-- S1, L1.29. -/
theorem test_tick_after_reset : after .tick r0 (fun s => (s.ppm, s.pcm, s.srxl, s.notifications)) =
    some (r0.ppm, r0.pcm, r0.srxl, []) := by decide

/-- P14. -/
theorem test_tick_expires_ppm :
    after .tick { ppmSource 3000 with ppm := { (ppmSource 3000).ppm with timeout := 99 } }
      (fun s => (s.ppm.state, s.ppm.count, s.ppm.receiving, s.ppm.timeout, s.notifications)) =
      some (.wfs, 0, false, 100, [0x31300000]) := by decide

/-- P17. -/
theorem test_reset_clears_ppm :
    after .reset (ppmSource 3000) (fun s => (s.ppm, s.agg, s.responses)) = some (r0.ppm, r0.agg, [0]) := by decide

/-- R550: `inp.op` is 0 after RESET, whatever the last instruction with payload was. -/
theorem test_reset_clears_inp :
    after .reset { r0 with inp := { r0.inp with op := 0x88000000 } } (fun s => s.inp) = some r0.inp := by decide

/-- E1. -/
theorem test_reserved_opcode :
    after (.reservedOp00 0) r0 (fun s => (s.responses, s.notifications)) = some ([0x01000000], [0x30410000]) := by decide

/-! ### Assembler and environment -/

/-- R160: hexadecimal numbers and comments. -/
theorem test_parse_edge : parseLine dp "EDGE.R 0xBb8 ; a comment".toList = some (.edge true 3000) := by decide
theorem test_parse_status : parseLine dp "GETST SRXL".toList = some (.getst 3) := by decide

/-- Program 1 of L3 encodes `UPDATE` and the outputs of `REPORT` as these words (R161). -/
theorem test_assemble_report :
    (assemble dp [.report]).take 3 = [0x40000000, 0x60000000, 0x60000001] := by decide

/-- A UART byte may not pass an alarm that is overdue (R575 duty 3). -/
theorem test_environment_owes_the_alarm :
    Env.allows dp ⟨0, 0, 0, none, some 10000, none, none, none, true⟩ ⟨10001, 10001, .uartByte 0 10001⟩ = false ∧
    Env.allows dp ⟨0, 0, 0, none, some 10000, none, none, none, true⟩ ⟨10000, 0, .alarmSrxl⟩ = true := by decide

/-- Captures of different sources come in any order, captures of one source in theirs (R515, R575 duty 1). -/
theorem test_environment_orders_each_source_alone :
    Env.allows dp ⟨106, 105, 90, none, none, none, none, none, true⟩ ⟨106, 100, .uartByte 0 100⟩ = true ∧
    Env.allows dp ⟨106, 105, 90, none, none, none, none, none, true⟩ ⟨106, 100, .edge true 100⟩ = false := by decide

/-- Rows 5 to 8 of program 4 of L3: after CFG_SAVE the store may answer `load()` with another record, and then with the
saved one again; a healthy store only with the saved one (R405, R575 duty 6). -/
theorem test_store_answers :
    let saved := encodeRecord (cfgDefaults dp)
    let other := saved.set 0 2
    let env (healthy : Bool) : Env := ⟨0, 0, 0, none, none, none, none, some saved, healthy⟩
    (env false).allows dp ⟨0, 0, .cfgLoad (some (other ++ [0, 0]))⟩ = true ∧
    (env false).allows dp ⟨0, 0, .cfgLoad (some (saved ++ [0, 0]))⟩ = true ∧
    (env true).allows dp ⟨0, 0, .cfgLoad (some (other ++ [0, 0]))⟩ = false ∧
    (env true).allows dp ⟨0, 0, .cfgLoad (some (saved ++ [0, 0]))⟩ = true := by decide

/-! ### Witnesses: for each statement with hypotheses, values that meet all of them together; where it has several clauses,
values for each, at the edge of its range -/

theorem witness_DecodeOfEncodeIsIdentity :
    (Instr.cfgWrite (List.replicate 24 0)).WellFormed dp ∧ (Instr.reservedOp1E 0x7FFFFFF).WellFormed dp := by decide

theorem witness_EncodeOfDecodeIsIdentity : decode 6 [0x08010BB8, 0x28000000] = .ok (.edge true 3000, [0x28000000]) := by
  decide

/-- A row that a word matches, and a word that matches no row. -/
theorem witness_OpcodeMapDecidesDecoding :
    (∃ row ∈ opcodeTable, row.Matches 0x08010BB8) ∧ ∀ row ∈ opcodeTable, ¬ row.Matches 0x68000004 := by
  unfold opcodeTable; decide

theorem witness_RecordImageRoundTrip :
    r0.cfg.mapping.length = dp.maxOutputChannels ∧ (recordWith 0 1).length = 14 + dp.maxOutputChannels := by decide

/-- The last byte of the record is byte 21, and byte 23 is a pad byte of the last word. -/
theorem witness_PayloadWordsCarryRecordBytes :
    (recordWith 0 1).length = dp.configSize ∧ 21 < dp.configSize ∧ 23 < 4 * dp.payloadWords := by decide

theorem witness_StepRunsDecodedInstruction_one_word :
    dp.Admitted ∧ r0.inp.need = 0 ∧ payloadCount dp.payloadWords 0x28000000 = 0 ∧ decodeOp 0x28000000 [] = .ok .tick := by
  decide

/-- An input assembler that waits for the last word of CFG_WRITE. -/
def lastWordDue : Inp := ⟨1, 0x88000000, List.replicate 24 0⟩

theorem witness_StepRunsDecodedInstruction_payload :
    dp.Admitted ∧ lastWordDue.need = 1 ∧
      decodeOp lastWordDue.op (lastWordDue.append dp 0x12345678) =
        .ok (.cfgWrite (List.replicate 20 0 ++ [0x78, 0x56, 0x34, 0x12])) := by decide

/-- The four clauses: an opcode word with a payload, a payload word with two still due, and an empty port between and
inside instructions. -/
theorem witness_StepBetweenInstructions :
    dp.Admitted ∧ r0.inp.need = 0 ∧ r0.input = [] ∧ 2 ≤ (Inp.mk 2 0x88000000 []).need.toNat ∧ lastWordDue.need ≠ 0 := by
  decide

theorem witness_DeliveredInstructionRunsWhole :
    dp.Admitted ∧ r0.Idle ∧ (Instr.cfgLoad (some (List.replicate 24 0))).WellFormed dp ∧ Instr.tick.WellFormed dp := by
  decide

/-- A word of a defined opcode with a reserved bit, and a reserved opcode. -/
theorem witness_IllegalWordsAreAnswered :
    dp.Admitted ∧ r0.inp.need = 0 ∧
    (∀ row ∈ opcodeTable, row.Matches 0xF8000001 → row.mask = 0xF8000000) ∧
    ∀ row ∈ opcodeTable, row.Matches 0xF0000001 → row.mask = 0xF8000000 := by unfold opcodeTable; decide

/-- A state in the middle of a PPM frame, with a word waiting, that satisfies the invariant. -/
def midFrame : State := { ppmRd 9 with input := [0x18000000] }

theorem midFrame_inv : midFrame.Inv where
  admitted := by decide
  legal := by decide
  ppm := ⟨by decide, by decide, by decide, by decide, by decide, by decide, by decide, by decide, by decide⟩
  pcm := ⟨by decide, by decide, by decide, by decide, by decide, by decide, by decide, by decide, by decide, by decide⟩
  srxl := ⟨by decide, by decide, by decide, by decide, by decide, by decide, by decide, by decide, by decide, by decide⟩
  inp := ⟨by decide, by decide, by decide, by decide⟩

theorem witness_EveryStepKeepsInvariant : midFrame.Inv ∧ ∃ t, step midFrame = .next t := ⟨midFrame_inv, _, rfl⟩

theorem witness_PowerOnSatisfiesInvariant :
    dp.Admitted ∧ ({ dp with maxOutputChannels := 16, ticksPerUs := 3, rangeLo := 1 } : Params).Admitted ∧ otherParams.Admitted :=
  ⟨by decide, by decide, test_other_sizes_admitted⟩

theorem witness_NoStepStopsTheBlock : midFrame.Inv ∧ midFrame.input ≠ [] ∧ midFrame.inp.need = 0 :=
  ⟨midFrame_inv, by decide, by decide⟩

theorem witness_PortsOnlyGrow : ∃ t, step midFrame = .next t := ⟨_, rfl⟩

/-- With `PPM_INVERT` 0 the rising edge qualifies and the falling edge does not. -/
theorem witness_PolarityChoosesQualifyingEdges : Qualifies true r0 ∧ ¬ Qualifies false r0 := by decide

theorem witness_EdgeOutsidePpmFrame :
    Qualifies true r0 ∧ r0.ppm.state = .wfs ∧
    Qualifies true { r0 with ppm := { r0.ppm with state := .sd } } := by decide

/-- The gap 6999 is the last one below the threshold 7000; the bank takes channel 8 and not channel 9. -/
theorem witness_ChannelGapIsRecorded :
    Qualifies true (ppmRd 8) ∧ (ppmRd 8).ppm.state = .rd ∧ (ppmGap (ppmRd 8) 14999).toNat = 6999 ∧
    (syncTicks (ppmRd 8)).toNat = 7000 ∧ (ppmRd 8).ppm.chIndex.toNat < dp.ppmMaxChannels ∧
    (ppmRd 8).ppm.bank.Sized dp.ppmMaxChannels ∧ dp.ppmMaxChannels ≤ (ppmRd 9).ppm.chIndex.toNat := by decide

/-- The gap 7000 is the threshold; 4 channels are enough and 3 are not. -/
theorem witness_SyncGapClosesPpmFrame :
    Qualifies true (ppmRd 4) ∧ (ppmRd 4).ppm.state = .rd ∧
    (syncTicks (ppmRd 4)).toNat ≤ (ppmGap (ppmRd 4) 15000).toNat ∧
    (ppmGap (ppmRd 4) 15000).toNat = 7000 ∧ dp.ppmMinChannels ≤ (ppmRd 4).ppm.chIndex.toNat ∧
    (ppmRd 3).ppm.chIndex.toNat < dp.ppmMinChannels := by decide

theorem witness_AlarmPpmFiresOnce :
    r0.ppm.alarmArmed = false ∧ r0.ppm.state = .wfs ∧ (ppmRd 4).ppm.alarmArmed = true ∧ (ppmRd 4).ppm.state = .rd ∧
    dp.ppmMinChannels ≤ (ppmRd 4).ppm.chIndex.toNat ∧ (ppmRd 3).ppm.chIndex.toNat < dp.ppmMinChannels := by decide

theorem witness_EdgeAndAlarmAgreeInEitherOrder :
    Qualifies true (ppmRd 4) ∧ (ppmRd 4).ppm.state = .rd ∧ (ppmRd 4).ppm.alarmArmed = true ∧
    (syncTicks (ppmRd 4)).toNat ≤ (ppmGap (ppmRd 4) 15000).toNat := by decide

/-- A frame of ten gaps, one of them one tick under the threshold. -/
def tenGaps : List U16 := [0, 3000, 6999, 3000, 3000, 3000, 3000, 3000, 3000, 4000]

/-- Four gaps and ten gaps. -/
theorem witness_PpmFrameIsCapturedExactly :
    dp.Admitted ∧ (ppmRd 0).ppm.bank.Sized dp.ppmMaxChannels ∧
    Qualifies true (ppmRd 0) ∧ (ppmRd 0).ppm.state = .rd ∧ (ppmRd 0).ppm.chIndex = 0 ∧
    (ppmRd 0).ppm.alarmArmed = true ∧ dp.ppmMinChannels ≤ min (tenGaps.take 4).length dp.ppmMaxChannels ∧
    min tenGaps.length dp.ppmMaxChannels = 9 ∧ ∀ w ∈ tenGaps, w.toNat < (syncTicks (ppmRd 0)).toNat := by
  have below : tenGaps.all (fun w => decide (w.toNat < (syncTicks (ppmRd 0)).toNat)) = true := by decide
  exact ⟨by decide, by decide, by decide, by decide, by decide, by decide, by decide, by decide, fun w h =>
    of_decide_eq_true (List.all_eq_true.mp below w h)⟩

theorem witness_PcmEdgeWithoutSymbol :
    r0.pcm.syncPending = false ∧ r0.pcm.state = .wfs ∧
    ({ r0.pcm with syncPending := true } : Pcm).syncPending = true := by decide

theorem witness_PcmSymbolIsItsWindow : dp.Admitted ∧ pcmClassify dp 1899 = 0 ∧ pcmClassify dp 1900 = 1 := by decide

/-- Symbols 2 and 7 with `lastBits = 0`. -/
theorem witness_InvalidSymbolIsDesync :
    TakesSymbol (pcmRd 0 0 0 0) ∧ ¬ ValidSymbol (pcmRd 0 0 0 0) 6720 ∧ symbolAt (pcmRd 0 0 0 0) 6720 = 2 ∧
    ¬ ValidSymbol (pcmRd 0 0 0 0) 8000 := by decide

/-- The fourth data symbol of the last byte. -/
theorem witness_DataSymbolShiftsTwoBits :
    TakesSymbol (pcmRd 7 3 0x2A 3) ∧ ValidSymbol (pcmRd 7 3 0x2A 3) 4400 ∧ (pcmRd 7 3 0x2A 3).pcm.byteIndex.toNat < dp.pcmDataBytes ∧
    (pcmRd 7 3 0x2A 3).pcm.symInByte.toNat < 4 := by decide

/-- The check pair of 0x80 is 1: symbol 4 carries it after `lastBits = 0`, and symbol 3 does not. -/
theorem witness_CheckSymbolGuardsTheByte :
    TakesSymbol (pcmRd 7 4 0x80 0) ∧ ValidSymbol (pcmRd 7 4 0x80 0) 7280 ∧ ValidSymbol (pcmRd 7 4 0x80 0) 7000 ∧
    dp.Admitted ∧ (pcmRd 7 4 0x80 0).pcm.bank.Sized dp.pcmBankSize ∧
    (pcmRd 7 4 0x80 0).pcm.byteIndex.toNat < dp.pcmDataBytes ∧ 4 ≤ (pcmRd 7 4 0x80 0).pcm.symInByte.toNat ∧
    bitsAt (pcmRd 7 4 0x80 0) 7280 = (checkPair 0x80).toNat ∧ bitsAt (pcmRd 7 4 0x80 0) 7000 ≠ (checkPair 0x80).toNat := by
  decide

/-- The first trailer symbol, the trailers 0xC and 0xD, and the trailer 0x9. -/
theorem witness_TrailerEndsThePcmFrame :
    TakesSymbol (pcmRd 8 1 3 0) ∧ ValidSymbol (pcmRd 8 1 3 0) 7000 ∧
    dp.pcmDataBytes ≤ (pcmRd 8 1 3 0).pcm.byteIndex.toNat ∧
    (pcmRd 8 0 0 0).pcm.symInByte = 0 ∧ ValidSymbol (pcmRd 8 0 0 0) 7000 ∧
    (pcmRd 8 1 3 0).pcm.acc.toNat % 4 * 4 + bitsAt (pcmRd 8 1 3 0) 7000 = 0xC ∧
    (pcmRd 8 1 3 0).pcm.acc.toNat % 4 * 4 + bitsAt (pcmRd 8 1 3 0) 7280 = 0xD ∧
    ValidSymbol (pcmRd 8 1 2 2) 6720 ∧ (pcmRd 8 1 2 2).pcm.acc.toNat % 4 * 4 + bitsAt (pcmRd 8 1 2 2) 6720 = 0x9 := by decide

theorem witness_ExtendedFrameRelocates :
    dp.Admitted ∧ (pcmRd 8 1 2 2).pcm.bank.Sized dp.pcmBankSize ∧
    TakesSymbol (pcmRd 8 1 2 2) ∧ ValidSymbol (pcmRd 8 1 2 2) 6720 ∧ dp.pcmDataBytes ≤ (pcmRd 8 1 2 2).pcm.byteIndex.toNat ∧
    (pcmRd 8 1 2 2).pcm.symInByte = 1 ∧
    (pcmRd 8 1 2 2).pcm.acc.toNat % 4 * 4 + bitsAt (pcmRd 8 1 2 2) 6720 = 0x9 := by decide

/-- Eight bytes of zeros: every data symbol is 3 but the check pairs', and the high phases are the centres. -/
def zeroCells : List (U16 × U16) := (pcmFrameSymbols (List.replicate 8 0) 0xC).map fun k =>
  (400, BitVec.ofNat 16 (1760 + 280 * k))

/-- PCM behind a sync, as the start setup `PCM_SD` of `95_test_vectors.md` leaves it. -/
def pcmSd : State := { r0 with pcm := { r0.pcm with state := .sd, lastEdge := 4400 } }

set_option maxRecDepth 10000 in
theorem zeroCells_symbols :
    zeroCells.map (fun c => pcmClassify dp (tickCount pcmSd c.2.toNat)) = pcmFrameSymbols (List.replicate 8 0) 0xC := by decide

theorem witness_PcmFrameIsDecodedExactly :
    dp.Admitted ∧ pcmSd.pcm.bank.Sized dp.pcmBankSize ∧ (List.replicate 8 (0 : Byte)).length = dp.pcmDataBytes ∧
    pcmSd.pcm.state = .sd ∧ pcmSd.pcm.syncPending = false ∧
    pcmSd.pcm.lastBits = 0 ∧ pcmSd.pcm.symInByte = 0 ∧ pcmSd.pcm.acc = 0 ∧ pcmSd.pcm.byteIndex = 0 ∧
    (∀ c ∈ zeroCells, (tickCount pcmSd c.1.toNat).toNat / dp.ticksPerUs < dp.pcmSyncMinUs) ∧
    zeroCells.map (fun c => pcmClassify dp (tickCount pcmSd c.2.toNat)) = pcmFrameSymbols (List.replicate 8 0) 0xC := by
  refine ⟨by decide, by decide, by decide, by decide, by decide, by decide, by decide, by decide, by decide, ?_,
    zeroCells_symbols⟩
  intro c h
  obtain ⟨k, _, rfl⟩ := List.mem_map.mp h
  show (tickCount pcmSd (400 : U16).toNat).toNat / dp.ticksPerUs < dp.pcmSyncMinUs
  decide

theorem witness_ByteWithoutSyncIsDropped : r0.srxl.state = .wfs := by decide

theorem witness_HeaderFixesFrameLength :
    srxlSd.srxl.state = .sd ∧ dp.Admitted ∧ srxlSd.srxl.bank.Sized dp.srxlBankSize ∧ (0x55 : Byte) ≠ 0xA1 ∧ (0x55 : Byte) ≠ 0xA2 := by decide

/-- The byte before the last one of each frame length. -/
theorem witness_FrameByteIsStored :
    (srxlRd 33 35).srxl.state = .rd ∧ (srxlRd 33 35).srxl.bank.Sized dp.srxlBankSize ∧
    (srxlRd 33 35).srxl.byteIndex.toNat < dp.srxlBankSize ∧
    (srxlRd 33 35).srxl.byteIndex + 1 ≠ (srxlRd 33 35).srxl.expected ∧
    (srxlRd 25 27).srxl.byteIndex + 1 ≠ (srxlRd 25 27).srxl.expected := by decide

set_option maxRecDepth 10000 in
/-- F_A2 with its CRC 37 BB, and with another last byte. -/
theorem witness_LastByteChecksTheCrc :
    dp.Admitted ∧ (srxlRd 34 35).srxl.bank.Sized dp.srxlBankSize ∧
    (srxlRd 34 35).srxl.state = .rd ∧ (srxlRd 34 35).srxl.expected = BitVec.ofNat 6 35 ∧
    (srxlRd 34 35).srxl.byteIndex = BitVec.ofNat 6 (35 - 1) ∧
    (srxlRd 34 35).srxl.bank.read (srxlRd 34 35).srxl.sel (35 - 2) = some 0x37 ∧
    crc16 (((srxlRd 34 35).srxl.bank.side (srxlRd 34 35).srxl.sel).take (35 - 2)) = 0x37#8 ++ 0xBB#8 ∧
    crc16 (((srxlRd 34 35).srxl.bank.side (srxlRd 34 35).srxl.sel).take (35 - 2)) ≠ 0x37#8 ++ 0xBA#8 := by decide

theorem witness_AlarmSrxlFiresOnce :
    r0.srxl.alarmArmed = false ∧ r0.srxl.state = .wfs ∧ srxlSd.srxl.state = .sd ∧ (srxlRd 1 27).srxl.state = .rd := by decide

/-- The bytes of the frame F_A1 of `95_test_vectors.md` between its header and its CRC. -/
def bodyA1 : List Byte :=
  [0x08, 0x00, 0x08, 0x00, 0x08, 0x00, 0x08, 0x00, 0x08, 0x00, 0x08, 0x00, 0x08, 0x00, 0x08, 0x00, 0x08, 0x00, 0x08, 0x00,
    0x08, 0x00, 0x08, 0x00]

set_option maxRecDepth 10000 in
theorem crc_frameA1 : crc16 (0xA1 :: bodyA1) = 0xA2#8 ++ 0xAF#8 := by decide

/-- The CRC A2 AF, and another. -/
theorem witness_SrxlFrameIsDecodedExactly :
    dp.Admitted ∧ srxlSd.srxl.bank.Sized dp.srxlBankSize ∧ srxlSd.srxl.state = .sd ∧ bodyA1.length = 24 ∧ crc16 (0xA1 :: bodyA1) = 0xA2#8 ++ 0xAF#8 ∧
    crc16 (0xA1 :: bodyA1) ≠ 0x00#8 ++ 0x00#8 :=
  ⟨by decide, by decide, by decide, by decide, crc_frameA1, by rw [crc_frameA1]; decide⟩

theorem witness_CrcDetectsOneByteErrors : (0x0F : Byte) ≠ 0x0E := by decide

theorem witness_UpdateSelectsByFixedPriority : r0.params.sourceSelect = .fixed := by decide

theorem witness_UpdateSelectsLastReceiving :
    ({ dp with sourceSelect := .lastReceiving } : Params).sourceSelect = .lastReceiving := by decide

theorem witness_GetSourceAndCountRespond :
    r0.agg.source = .none ∧ (ppmSource 0).agg.source = .ppm ∧ pcmSource.agg.source = .pcm ∧
    srxlSource.agg.source = .srxl := by decide

/-- The last channel of each source, and the first index beyond it. -/
theorem witness_GetInputRespondsMicroseconds_ppm :
    (ppmSource 3000).agg.source = .ppm ∧ (3 : Byte).toNat < (ppmSource 3000).ppm.count.toNat ∧
    (ppmSource 3000).ppm.count.toNat ≤ (4 : Byte).toNat ∧
    (ppmSource 3000).ppm.bank.read (!(ppmSource 3000).ppm.sel) 3 = some 3000 := by decide

theorem witness_GetInputRespondsMicroseconds_pcm :
    pcmSource.agg.source = .pcm ∧ (9 : Byte).toNat < pcmSource.pcm.count.toNat ∧
    pcmSource.pcm.count.toNat ≤ (10 : Byte).toNat ∧ pcmSource.pcm.bank.read (!pcmSource.pcm.sel) 9 = some 0 := by decide

set_option maxRecDepth 10000 in
theorem witness_GetInputRespondsMicroseconds_srxl :
    srxlSource.agg.source = .srxl ∧ (15 : Byte).toNat < srxlSource.srxl.count.toNat ∧
    srxlSource.srxl.count.toNat ≤ (16 : Byte).toNat ∧
    srxlSource.srxl.bank.read (!srxlSource.srxl.sel) (1 + 2 * 15) = some 0x08 ∧
    srxlSource.srxl.bank.read (!srxlSource.srxl.sel) (2 + 2 * 15) = some 0x00 := by decide

/-- Output 7 is the last one, output 3 maps the last of four channels, and output 4 maps beyond them. -/
theorem witness_GetOutputRespondsScaledValue :
    dp.maxOutputChannels ≤ (8 : Byte).toNat ∧ (7 : Byte).toNat < dp.maxOutputChannels ∧
    r0.cfg.mapping[7]? = some 8 ∧ r0.cfg.mapping[3]? = some 4 ∧ r0.cfg.mapping[4]? = some 5 ∧
    (ppmSource 3000).agg.source ≠ .none ∧ 4 - 1 < aggCount (ppmSource 3000) ∧ aggCount (ppmSource 3000) ≤ 5 - 1 ∧
    r0.cfg.pulseWidthRange ≠ 0 ∧ (∃ pw, aggInputUs (ppmSource 3000) (4 - 1) = .ok pw) := by
  refine ⟨by decide, by decide, by decide, by decide, by decide, by decide, by decide, by decide, by decide, _, rfl⟩

theorem witness_DecoderStatusAndClear :
    (ppmSource 0).ppm.count.toNat = 4 ∧ (ppmSource 0).ppm.newData = true ∧ (ppmSource 0).ppm.state = .sd := by decide

theorem witness_ReadsChangeNoState :
    (∃ t, exec .getSource srxlSource = .next t) ∧ (∃ t, exec .getCount srxlSource = .next t) ∧
    (∃ t, exec (.getInput 15) srxlSource = .next t) ∧ (∃ t, exec (.getOutput 0) srxlSource = .next t) ∧
    (∃ t, exec (.getDecoderStatus 3) srxlSource = .next t) ∧ ∃ t, exec .cfgRead srxlSource = .next t :=
  ⟨⟨_, rfl⟩, ⟨_, rfl⟩, ⟨_, rfl⟩, ⟨_, rfl⟩, ⟨_, rfl⟩, ⟨_, rfl⟩⟩

theorem witness_CfgWriteValidates :
    cfgValid dp ((recordWith 0 1).take dp.configSize) = true ∧ cfgValid dp ((recordWith 0 2).take dp.configSize) = false := by
  decide

theorem witness_CfgDefaultAndLoadApply :
    cfgValid dp ((recordWith 14 16).take dp.configSize) = true ∧
    cfgValid dp ((recordWith 14 17).take dp.configSize) = false := by decide

theorem witness_ValidationChecksTheImage : (recordWith 0 1).length = dp.configSize := by decide

/-- The record is not the one `cfg` holds in the state `r0`, in which it can be loaded too. -/
theorem witness_ConfigurationRoundTrips :
    (recordWith 14 0).length = dp.configSize ∧ cfgValid dp (recordWith 14 0) = true ∧ r0.params = dp ∧
    decodeRecord dp (recordWith 14 0) ≠ r0.cfg := by decide

theorem witness_OnlyConfigurationWordsWriteCfg : ∃ t, exec .cfgDefault r0 = .next t := ⟨_, rfl⟩

/-- A counter at its limit, one below it, and one two below it. -/
theorem witness_TickCountsAndExpires :
    dp.ppmTimeoutTicks < 256 ∧ dp.pcmTimeoutTicks < 256 ∧ dp.srxlTimeoutTicks < 256 ∧
    dp.ppmTimeoutTicks ≤ r0.ppm.timeout.toNat ∧ (99 : Byte).toNat + 1 = dp.ppmTimeoutTicks ∧
    (98 : Byte).toNat + 1 < dp.ppmTimeoutTicks := by decide

theorem witness_OneResponsePerCommand :
    r0.cfg.mapping.length = r0.params.maxOutputChannels ∧ (∃ t, exec .cfgRead r0 = .next t) ∧ ∃ t, exec .tick r0 = .next t :=
  ⟨by decide, ⟨_, rfl⟩, ⟨_, rfl⟩⟩

theorem witness_AtMostOneErrorPerDecoder : ∃ t, exec .tick (ppmSource 0) = .next t := ⟨_, rfl⟩

theorem witness_StableBanksAreNeverWritten : Instr.alarmPpm ≠ .reset ∧ ∃ t, exec .alarmPpm (ppmRd 4) = .next t :=
  ⟨by decide, _, rfl⟩

set_option maxRecDepth 10000 in
/-- A flip of the PPM bank, of the PCM bank, and of the SRXL bank. -/
theorem witness_FlipIsPublication :
    (ppmRd 4).ppm.chIndex.toNat ≤ dp.ppmMaxChannels ∧
    after (.uartByte 0xBB 0) (srxlRd 34 35) (fun t => t.srxl.sel) = some true ∧
    after .alarmPpm (ppmRd 4) (fun t => t.ppm.sel) = some true ∧
    after (.edge false 7000) (pcmRd 8 1 3 0) (fun t => t.pcm.sel) = some true := by decide

/-- UPDATE writes `agg`, CFG_DEFAULT `cfg`, and RESET `inp`. -/
theorem witness_UnitsAreWrittenByTheirOwners :
    (∃ t, exec .update { srxlSource with agg := ⟨.none, 0⟩ } = .next t ∧ t.agg ≠ ⟨.none, 0⟩) ∧
    (∃ t, exec .cfgDefault { r0 with cfg := { r0.cfg with flags := 1 } } = .next t ∧ t.cfg.flags ≠ 1) ∧
    ∃ t, exec .reset { r0 with inp := { r0.inp with op := 0x88000000 } } = .next t ∧ t.inp.op ≠ 0x88000000 :=
  ⟨⟨_, rfl, by decide⟩, ⟨_, rfl, by decide⟩, ⟨_, rfl, by decide⟩⟩

/-- From 0 with limit 100: 99 ticks only count, and 100 reach the limit. -/
theorem witness_SilentPpmDecoderAgesOut :
    dp.ppmTimeoutTicks < 256 ∧ (ppmSource 0).ppm.timeout.toNat + 99 < dp.ppmTimeoutTicks ∧
    (ppmSource 0).ppm.timeout.toNat < dp.ppmTimeoutTicks ∧ dp.ppmTimeoutTicks ≤ (ppmSource 0).ppm.timeout.toNat + 100 := by
  decide

theorem reset_with_reserved_bit : decodeOp 0xF8000001 [] = .error .reservedBitSet := by decide

/-- An edge captured at time 65537 arms the PPM alarm, and a byte captured one tick before it and delivered behind it arms
the SRXL alarm, with an illegal word between them, in a run in which the environment keeps its duties. -/
theorem witness_OwedAlarmsAreTheArmedOnes :
    ∃ e t, TimedRun (.start 65530 none true) (State.powerOn dp) e t ∧ t.ppm.alarmArmed = true ∧ e.ppmDue = some 72537 ∧
      t.srxl.alarmArmed = true ∧ e.srxlDue = some 75536 :=
  ⟨_, _, .move ⟨65537, 65537, .edge true 1⟩ (by decide) (by decide) rfl
    (.illegal 0xF8000001 65538 (by decide) (fun _ h => nomatch reset_with_reserved_bit.symm.trans h)
      (.move ⟨65538, 65536, .uartByte 0xA1 0⟩ (by decide) (by decide) rfl (.done _ _))),
    by decide, by decide, by decide, by decide⟩

/-- R455: RESET cancels the two alarms of the same run; both words may still come after their due times, in a run that
keeps the duties, and the block ignores them. A second ALARM_PPM word would stand for no arming. -/
theorem test_cancelled_alarms_may_still_come :
    ∃ e t, TimedRun (.start 65530 none true) (State.powerOn dp) e t ∧ t.ppm.state = .wfs ∧ t.srxl.state = .wfs ∧
      t.notifications = [] ∧ e.allows dp ⟨80000, 80000, .alarmPpm⟩ = false :=
  ⟨_, _, .move ⟨65537, 65537, .edge true 1⟩ (by decide) (by decide) rfl
    (.move ⟨65538, 65536, .uartByte 0xA1 0⟩ (by decide) (by decide) rfl
      (.move ⟨65539, 65539, .reset⟩ (by decide) (by decide) rfl
        (.move ⟨75536, 75536, .alarmSrxl⟩ (by decide) (by decide) rfl
          (.move ⟨75537, 75537, .alarmPpm⟩ (by decide) (by decide) rfl (.done _ _))))),
    by decide, by decide, by decide, by decide⟩

end Sys2Proof.Tests
end

section
/-! PROOFS. The output ports only grow and no step changes the parameters (O15): one rule per state operation, then one
line per instruction. -/

namespace Sys2Proof.Machine

/-! ### The relation, and what each state operation does to it -/

/-- `t` has the parameters of `s`, and each output port of `s` is at the front of that port of `t`. -/
structure State.PortsExtend (s t : State) : Prop where
  params        : t.params = s.params
  responses     : s.responses <+: t.responses
  notifications : s.notifications <+: t.notifications
  store         : s.store <+: t.store

namespace State.PortsExtend

variable {s t u : State}

theorem refl (s : State) : s.PortsExtend s := ⟨rfl, List.prefix_rfl, List.prefix_rfl, List.prefix_rfl⟩

theorem trans (h : s.PortsExtend t) (h' : t.PortsExtend u) : s.PortsExtend u where
  params        := h'.params.trans h.params
  responses     := h.responses.trans h'.responses
  notifications := h.notifications.trans h'.notifications
  store         := h.store.trans h'.store

/-- A write of units alone, which leaves the parameters and the three output ports as they are. -/
theorem samePorts (h : s.PortsExtend t) (hp : u.params = t.params) (hr : u.responses = t.responses)
    (hn : u.notifications = t.notifications) (hs : u.store = t.store) : s.PortsExtend u where
  params        := hp.trans h.params
  responses     := hr ▸ h.responses
  notifications := hn ▸ h.notifications
  store         := hs ▸ h.store

theorem respond (h : s.PortsExtend t) (st : Status) (v : U16) : s.PortsExtend (t.respond st v) :=
  h.trans { refl t with responses := List.prefix_append _ _ }

theorem respondPayload (h : s.PortsExtend t) (bs : List Byte) : s.PortsExtend (t.respondPayload bs) :=
  h.trans { refl t with responses := List.prefix_append _ _ }

theorem notify (h : s.PortsExtend t) (ns : List Word) : s.PortsExtend (t.notify ns) :=
  h.trans { refl t with notifications := List.prefix_append _ _ }

theorem storePut (h : s.PortsExtend t) (bs : List Byte) : s.PortsExtend (t.storePut bs) :=
  h.trans { refl t with store := List.prefix_append _ _ }

theorem raiseError (h : s.PortsExtend t) (d : Option DecoderId) (c : Cause) : s.PortsExtend (t.raiseError d c) :=
  h.notify [noteError d c]

theorem illegalWord (h : s.PortsExtend t) : s.PortsExtend (Machine.illegalWord t) :=
  (h.respond .illegal 0).raiseError none .illegalCommand

theorem takePpm (h : s.PortsExtend t) (r : Ppm × List Word) : s.PortsExtend (t.takePpm r) :=
  (h.samePorts (u := t.withPpm r.1) rfl rfl rfl rfl).notify r.2

theorem takePcm (h : s.PortsExtend t) (r : Pcm × List Word) : s.PortsExtend (t.takePcm r) :=
  (h.samePorts (u := t.withPcm r.1) rfl rfl rfl rfl).notify r.2

theorem takeSrxl (h : s.PortsExtend t) (r : Srxl × List Word) : s.PortsExtend (t.takeSrxl r) :=
  (h.samePorts (u := t.withSrxl r.1) rfl rfl rfl rfl).notify r.2

theorem withAgg (h : s.PortsExtend t) (a : Agg) : s.PortsExtend (t.withAgg a) := h.samePorts rfl rfl rfl rfl

theorem withInp (h : s.PortsExtend t) (i : Inp) : s.PortsExtend (t.withInp i) := h.samePorts rfl rfl rfl rfl

theorem withInput (h : s.PortsExtend t) (ws : List Word) : s.PortsExtend (t.withInput ws) := h.samePorts rfl rfl rfl rfl

theorem cfgApply (h : s.PortsExtend t) (bs : List Byte) : s.PortsExtend (Machine.cfgApply bs t) :=
  h.samePorts rfl rfl rfl rfl

theorem cfgApplyDefaults (h : s.PortsExtend t) : s.PortsExtend (Machine.cfgApplyDefaults t) := h.cfgApply _

theorem resetUnits (h : s.PortsExtend t) : s.PortsExtend t.resetUnits := h.samePorts rfl rfl rfl rfl

theorem clearNewDataOf (h : s.PortsExtend t) (d : DecoderId) : s.PortsExtend (t.clearNewDataOf d) := by
  cases d with
  | ppm => exact h.samePorts rfl rfl rfl rfl
  | pcm => exact h.samePorts rfl rfl rfl rfl
  | srxl => exact h.samePorts rfl rfl rfl rfl

end State.PortsExtend

/-! ### Meanings -/

/-- If `o` is a next state, that state extends the output ports of `s`. -/
def NextExtendsPorts (s : State) (o : Host.Outcome State Fault Refusal) : Prop := ∀ t, o = .next t → s.PortsExtend t

theorem nextExtendsPorts_next {s t : State} (h : s.PortsExtend t) : NextExtendsPorts s (.next t) := by
  rintro _ ⟨⟩
  exact h

/-- A meaning that computes a value, faults if there is none, and uses it to extend the ports. -/
theorem nextExtendsPorts_outcomeOf_map {α : Type} {s : State} {f : α → State} (h : ∀ a, s.PortsExtend (f a))
    (r : Except Fault α) : NextExtendsPorts s (outcomeOf (r.map f)) := by
  cases r with
  | error e => exact fun _ hn => nomatch hn
  | ok a => exact nextExtendsPorts_next (h a)

open State.PortsExtend (refl)

theorem execGetInput_extendsPorts (i : Byte) (s : State) : NextExtendsPorts s (execGetInput i s) := by
  unfold execGetInput
  split
  · exact nextExtendsPorts_next ((refl s).respond _ _)
  · exact nextExtendsPorts_outcomeOf_map (fun _ => (refl s).respond _ _) _

theorem execGetOutput_extendsPorts (i : Byte) (s : State) : NextExtendsPorts s (execGetOutput i s) := by
  unfold execGetOutput
  split
  · exact nextExtendsPorts_next ((refl s).respond _ _)
  · exact nextExtendsPorts_outcomeOf_map (fun _ => (refl s).respond _ _) _

theorem execGetDecoderStatus_extendsPorts (k : BitVec 2) (s : State) :
    NextExtendsPorts s (execGetDecoderStatus k s) := by
  unfold execGetDecoderStatus
  split
  · exact nextExtendsPorts_next ((refl s).respond _ _)
  · exact nextExtendsPorts_next ((refl s).respond _ _)

theorem execClearNewData_extendsPorts (k : BitVec 2) (s : State) : NextExtendsPorts s (execClearNewData k s) := by
  unfold execClearNewData
  split
  · exact nextExtendsPorts_next ((refl s).respond _ _)
  · exact nextExtendsPorts_next (((refl s).clearNewDataOf _).respond _ _)

theorem execCfgWrite_extendsPorts (payload : List Byte) (s : State) : NextExtendsPorts s (execCfgWrite payload s) := by
  unfold execCfgWrite
  split
  · exact nextExtendsPorts_next (((refl s).cfgApply _).respond _ _)
  · exact nextExtendsPorts_next (((refl s).respond _ _).raiseError _ _)

theorem execCfgLoad_extendsPorts (payload : Option (List Byte)) (s : State) :
    NextExtendsPorts s (execCfgLoad payload s) := by
  cases payload with
  | none => exact nextExtendsPorts_next ((refl s).cfgApplyDefaults.respond _ _)
  | some bytes =>
    unfold execCfgLoad
    dsimp only
    split
    · exact nextExtendsPorts_next (((refl s).cfgApply _).respond _ _)
    · exact nextExtendsPorts_next (((refl s).cfgApplyDefaults.respond _ _).raiseError _ _)

/-- Every instruction keeps the parameters and only appends to the output ports. -/
theorem exec_extendsPorts (i : Instr) (s : State) : NextExtendsPorts s (exec i s) := by
  cases i with
  | edge r t => exact nextExtendsPorts_next (((refl s).takePpm _).takePcm _)
  | uartByte d t => exact nextExtendsPorts_outcomeOf_map (refl s).takeSrxl _
  | alarmPpm => exact nextExtendsPorts_next ((refl s).takePpm _)
  | alarmSrxl => exact nextExtendsPorts_next ((refl s).takeSrxl _)
  | tick => exact nextExtendsPorts_next ((((refl s).takePpm _).takePcm _).takeSrxl _)
  | update => exact nextExtendsPorts_next (((refl s).withAgg _).respond _ _)
  | getSource | getCount => exact nextExtendsPorts_next ((refl s).respond _ _)
  | getInput i => exact execGetInput_extendsPorts i s
  | getOutput i => exact execGetOutput_extendsPorts i s
  | getDecoderStatus k => exact execGetDecoderStatus_extendsPorts k s
  | clearNewData k => exact execClearNewData_extendsPorts k s
  | cfgRead => exact nextExtendsPorts_next (((refl s).respond _ _).respondPayload _)
  | cfgWrite payload => exact execCfgWrite_extendsPorts payload s
  | cfgDefault => exact nextExtendsPorts_next ((refl s).cfgApplyDefaults.respond _ _)
  | cfgSave => exact nextExtendsPorts_next (((refl s).storePut _).respond _ _)
  | cfgLoad payload => exact execCfgLoad_extendsPorts payload s
  | reset => exact nextExtendsPorts_next ((refl s).resetUnits.respond _ _)
  | reservedOp00 | reservedOp06 | reservedOp07 | reservedOp0F | reservedOp15 | reservedOp16 | reservedOp17
  | reservedOp18 | reservedOp19 | reservedOp1A | reservedOp1B | reservedOp1C | reservedOp1D | reservedOp1E =>
    exact nextExtendsPorts_next (refl s).illegalWord

/-! ### The step -/

theorem step_extendsPorts (s : State) : NextExtendsPorts s (step s) := by
  intro t h
  obtain ⟨_, ⟨_, _, rfl⟩ | ⟨w, rest, _, hw⟩⟩ := step_eq_next_cases s t h
  · exact refl t
  · have taken : ∀ u, s.PortsExtend ((s.withInput rest).withInp u) := ((refl s).withInput rest).withInp
    obtain ⟨u, _, rfl⟩ | ⟨op, payload, u, _, ⟨i, _, hexec⟩ | ⟨_, rfl⟩⟩ := hw
    · exact taken u
    · exact (taken u).trans (exec_extendsPorts i _ t hexec)
    · exact (taken u).illegalWord

/-- Settles O15, by the cases of a step and the rule of each instruction. -/
theorem portsOnlyGrow : Obligations.PortsOnlyGrow := by
  intro s t h
  obtain ⟨hparams, hresponses, hnotifications, hstore⟩ := step_extendsPorts s t h
  exact ⟨hparams, hresponses, hnotifications, hstore⟩

end Sys2Proof.Machine
end

section
/-! PROOFS. Laws the proofs behind them share: the bounds an admitted parameter set gives, the record image, and the cases
of the decoder procedures that `Laws/Units.lean` leaves open. -/

namespace Sys2Proof

/-! ### What an admitted parameter set gives each decoder -/

theorem Params.Admitted.ppm_lt {p : Params} (h : p.Admitted) : p.ppmMaxChannels < 2 ^ 4 ∧ p.ppmTimeoutTicks < 2 ^ 8 := by
  obtain ⟨-, -, -, -, hmax, -, -, -, -, hticks, -⟩ := h
  exact ⟨hmax, hticks⟩

theorem Params.Admitted.pcm_lt {p : Params} (h : p.Admitted) : p.pcmDataBytes < 2 ^ 4 ∧ p.pcmTimeoutTicks < 2 ^ 8 := by
  obtain ⟨-, -, -, -, -, hbytes, -, -, -, -, hticks, -⟩ := h
  exact ⟨hbytes, hticks⟩

theorem Params.Admitted.srxlTimeout_lt {p : Params} (h : p.Admitted) : p.srxlTimeoutTicks < 2 ^ 8 := by
  obtain ⟨-, -, -, -, -, -, -, -, -, -, -, hticks, -⟩ := h
  exact hticks

/-- The 8-bit counter `inp.need` holds the number of payload words (R80). -/
theorem Params.Admitted.payloadWords_lt {p : Params} (h : p.Admitted) : p.payloadWords < 2 ^ 8 := by
  obtain ⟨-, -, -, -, -, -, -, -, -, -, -, -, -, houts, -⟩ := h
  unfold Params.payloadWords Params.configSize
  omega

namespace Machine

/-! ### The configuration record -/

/-- The two bytes of a field give the field back (R104). -/
theorem leBytes_append (v : U16) : v.extractLsb' 8 8 ++ v.extractLsb' 0 8 = v := by
  apply BitVec.eq_of_getLsbD_eq
  intro i hi
  rw [BitVec.getLsbD_append]
  by_cases h : i < 8
  · simp [h]
  · simp [h, show i - 8 < 8 by omega, show 8 + (i - 8) = i by omega]

/-- A record with all its mapping entries is read back from its image (R104). -/
theorem decodeRecord_encodeRecord (p : Params) (c : CfgRecord) (h : c.mapping.length = p.maxOutputChannels) :
    decodeRecord p (encodeRecord c) = c := by
  have mapping : (List.range p.maxOutputChannels).map (fun o => recByte (encodeRecord c) (14 + o)) = c.mapping := by
    apply List.ext_getElem (by simp [h])
    intro o _ ho
    simp [recByte, encodeRecord, leBytes, Nat.add_comm 14 o, ho]
  cases c
  simp only [decodeRecord, mapping]
  simp [recField, recByte, encodeRecord, leBytes, leBytes_append]

@[simp] theorem cfgDefaults_mapping_length (p : Params) : (cfgDefaults p).mapping.length = p.maxOutputChannels := by
  simp [cfgDefaults]

/-- The defaults of an admitted parameter set are a legal record (R402, R404). -/
theorem cfgDefaults_legal {p : Params} (h : p.Admitted) : (cfgDefaults p).Legal p := by
  obtain ⟨-, -, -, -, -, -, -, -, -, -, -, -, -, houts, hins, hversion, hsyncLo, hsyncHi, hcenterLo, hcenterHi, -, hrangeLo,
    hrangeHi, -⟩ := h
  refine ⟨Nat.mod_eq_of_lt hversion, ⟨hsyncLo, hsyncHi⟩, ⟨hcenterLo, hcenterHi⟩, ⟨hrangeLo, hrangeHi⟩,
    cfgDefaults_mapping_length p, fun m hm => ?_⟩
  obtain ⟨o, ho, rfl⟩ := List.mem_map.mp hm
  have : o < p.maxOutputChannels := List.mem_range.mp ho
  rw [BitVec.toNat_ofNat]
  omega

/-! ### The decoders -/

/-- Closing a frame leaves the channel counter at 0 and the alarm as it was. -/
theorem ppmCloseFrame_frame (p : Params) (u : Ppm) :
    (ppmCloseFrame p u).1.chIndex = 0 ∧ (ppmCloseFrame p u).1.alarmArmed = u.alarmArmed := by
  rcases ppmCloseFrame_cases p u with ⟨_, e⟩ | ⟨_, e⟩ <;> rw [e] <;> exact ⟨rfl, rfl⟩

/-- In a frame the first symbol moves SD to RD and writes nothing else (R263). -/
theorem pcmBegin_eq {u : Pcm} (h : u.state ≠ .wfs) : pcmBegin u = { u with state := .rd } := by
  obtain ⟨state⟩ := u
  cases state with
  | wfs => exact absurd rfl h
  | sd | rd => rfl

/-- Everything a symbol can do behind a sync (R263): a desync, or its bits are taken in RD. -/
theorem pcmSymbol_cases (p : Params) (sym : Nat) {u : Pcm} (h : u.state ≠ .wfs) :
    pcmSymbol p sym u = pcmError .pcmDesync u ∨
    ∃ bits, pcmSymbol p sym u = pcmTake p bits { u with state := .rd, lastBits := bits.setWidth 2 } := by
  unfold pcmSymbol
  rw [pcmBegin_eq h]
  split
  · exact .inl rfl
  · exact .inr ⟨_, rfl⟩

/-- What the check of a whole frame answers (R311): a frame of 12 or 16 channels, or a CRC error. -/
theorem srxlCheck_eq_ok {u : Srxl} {r : Srxl × List Word} (h : srxlCheck u = .ok r) :
    (∃ n, (n = 12 ∨ n = 16) ∧ r = srxlAccept n u) ∨ r = srxlError .srxlCrc u := by
  rcases srxlCheck_cases u with ⟨_, e⟩ | ⟨_, _, _, _, _, ⟨_, e⟩ | ⟨_, e⟩⟩ <;> rw [e] at h <;> cases h
  · exact .inl ⟨_, by split <;> simp, rfl⟩
  · exact .inr rfl

/-- What a byte of a frame comes to when it does not fault (R306): it is stored, and the last one is checked. -/
theorem srxlStore_eq_ok {d : Byte} {u : Srxl} {r : Srxl × List Word} (h : srxlStore d u = .ok r) :
    (u.byteIndex + 1 ≠ u.expected ∧
      r = ({ u with bank := u.bank.write u.sel u.byteIndex.toNat d, byteIndex := u.byteIndex + 1 }, [])) ∨
    srxlCheck { u with bank := u.bank.write u.sel u.byteIndex.toNat d, byteIndex := u.byteIndex + 1 } = .ok r := by
  rcases srxlStore_cases d u with ⟨_, e⟩ | ⟨_, hne, e⟩ | ⟨_, _, e⟩ <;> rw [e] at h
  · cases h
  · cases h
    exact .inl ⟨hne, rfl⟩
  · exact .inr h

end Machine

end Sys2Proof
end

section
/-! PROOFS. What each instruction writes (R30): for every unit the list of the values an instruction can leave in it, said
once. The ownership of the units (O58) reads it off, and the files behind this one cite it for the banks and the
invariant. -/

namespace Sys2Proof.Machine

/-! ### What an instruction can leave in a unit -/

/-- `PpmWrite s i u`: the instruction `i`, run in `s`, can leave `u` in the unit `ppm`. -/
inductive PpmWrite (s : State) : Instr → Ppm → Prop where
  | kept (i : Instr) : PpmWrite s i s.ppm
  | edge (r : Bool) (t : U16) : PpmWrite s (.edge r t) (ppmEdge s.params s.cfg t r s.ppm).1
  | alarm : PpmWrite s .alarmPpm (ppmAlarm s.params s.ppm).1
  | tick : PpmWrite s .tick (ppmTick s.params s.ppm).1
  | clearNewData : PpmWrite s (.clearNewData 1) { s.ppm with newData := false }
  | reset : PpmWrite s .reset (.reset s.params)

/-- `PcmWrite s i u`: the instruction `i`, run in `s`, can leave `u` in the unit `pcm`. -/
inductive PcmWrite (s : State) : Instr → Pcm → Prop where
  | kept (i : Instr) : PcmWrite s i s.pcm
  | edge (r : Bool) (t : U16) : PcmWrite s (.edge r t) (pcmEdge s.params t r s.pcm).1
  | tick : PcmWrite s .tick (pcmTick s.params s.pcm).1
  | clearNewData : PcmWrite s (.clearNewData 2) { s.pcm with newData := false }
  | reset : PcmWrite s .reset (.reset s.params)

/-- `SrxlWrite s i u`: the instruction `i`, run in `s`, can leave `u` in the unit `srxl`. -/
inductive SrxlWrite (s : State) : Instr → Srxl → Prop where
  | kept (i : Instr) : SrxlWrite s i s.srxl
  | byte (d : Byte) (t : U16) (r : Srxl × List Word) :
      srxlByte s.params d t s.srxl = .ok r → SrxlWrite s (.uartByte d t) r.1
  | alarm : SrxlWrite s .alarmSrxl (srxlAlarm s.srxl).1
  | tick : SrxlWrite s .tick (srxlTick s.params s.srxl).1
  | clearNewData : SrxlWrite s (.clearNewData 3) { s.srxl with newData := false }
  | reset : SrxlWrite s .reset (.reset s.params)

/-- The four instructions that may write `cfg` (R403). -/
def WritesCfg (i : Instr) : Prop := (∃ x, i = .cfgWrite x) ∨ (∃ x, i = .cfgLoad x) ∨ i = .cfgDefault ∨ i = .reset

/-- `CfgWrite s i c`: the instruction `i`, run in `s`, can leave `c` in `cfg`. -/
inductive CfgWrite (s : State) : Instr → CfgRecord → Prop where
  | kept (i : Instr) : CfgWrite s i s.cfg
  | record (i : Instr) (bytes : List Byte) :
      WritesCfg i → cfgValid s.params bytes = true → CfgWrite s i (decodeRecord s.params bytes)
  | defaults (i : Instr) : WritesCfg i → CfgWrite s i (decodeRecord s.params (encodeRecord (cfgDefaults s.params)))

/-- All that the instruction `i`, run in `s`, may have done to the units and the input port when it answers `t`. -/
structure Writes (s : State) (i : Instr) (t : State) : Prop where
  ppm    : PpmWrite s i t.ppm
  pcm    : PcmWrite s i t.pcm
  srxl   : SrxlWrite s i t.srxl
  agg    : t.agg = s.agg ∨ i = .update ∨ i = .reset
  cfg    : CfgWrite s i t.cfg
  inp    : t.inp = s.inp ∨ (i = .reset ∧ t.inp = .reset s.params)
  input  : t.input = s.input
  params : t.params = s.params

namespace Writes

variable {s t : State} {i : Instr}

theorem kept (s : State) (i : Instr) : Writes s i s where
  ppm    := .kept i
  pcm    := .kept i
  srxl   := .kept i
  agg    := .inl rfl
  cfg    := .kept i
  inp    := .inl rfl
  input  := rfl
  params := rfl

/-! Output writes no unit. -/

theorem respond (h : Writes s i t) (st : Status) (v : U16) : Writes s i (t.respond st v) := { h with }

theorem raiseError (h : Writes s i t) (d : Option DecoderId) (c : Cause) : Writes s i (t.raiseError d c) := { h with }

theorem illegalWord (s : State) (i : Instr) : Writes s i (Machine.illegalWord s) :=
  ((kept s i).respond .illegal 0).raiseError none .illegalCommand

/-! The records that reach `cfg`. -/

theorem cfgApply (s : State) (bytes : List Byte) (hi : WritesCfg i) (hv : cfgValid s.params bytes = true) :
    Writes s i (Machine.cfgApply bytes s) :=
  { kept s i with cfg := .record i bytes hi hv }

theorem cfgApplyDefaults (s : State) (hi : WritesCfg i) : Writes s i (Machine.cfgApplyDefaults s) :=
  { kept s i with cfg := .defaults i hi }

/-- RESET leaves every unit at its reset value. -/
theorem resetUnits (s : State) : Writes s .reset s.resetUnits where
  ppm    := .reset
  pcm    := .reset
  srxl   := .reset
  agg    := .inr (.inr rfl)
  cfg    := .defaults .reset (.inr (.inr (.inr rfl)))
  inp    := .inr ⟨rfl, rfl⟩
  input  := rfl
  params := rfl

end Writes

/-! ### Meanings -/

/-- If `o` is a next state, `i` run in `s` may have written what that state holds. -/
def NextWrites (s : State) (i : Instr) (o : Host.Outcome State Fault Refusal) : Prop := ∀ t, o = .next t → Writes s i t

theorem nextWrites_next {s t : State} {i : Instr} (h : Writes s i t) : NextWrites s i (.next t) := by
  rintro _ ⟨⟩
  exact h

/-- A meaning that computes a value and faults if there is none. -/
theorem nextWrites_outcomeOf_map {α : Type} {s : State} {i : Instr} {f : α → State} {r : Except Fault α}
    (h : ∀ a, r = .ok a → Writes s i (f a)) : NextWrites s i (outcomeOf (r.map f)) := by
  cases r with
  | error e => exact fun _ hn => nomatch hn
  | ok a => exact nextWrites_next (h a rfl)

open Writes (kept)

theorem execUartByte_writes (d : Byte) (x : U16) (s : State) : NextWrites s (.uartByte d x) (execUartByte d x s) :=
  nextWrites_outcomeOf_map fun r hr => { kept s _ with srxl := .byte d x r hr }

theorem execGetInput_writes (k : Byte) (s : State) : NextWrites s (.getInput k) (execGetInput k s) := by
  unfold execGetInput
  split
  · exact nextWrites_next ((kept s _).respond _ _)
  · exact nextWrites_outcomeOf_map fun _ _ => (kept s _).respond _ _

theorem execGetOutput_writes (k : Byte) (s : State) : NextWrites s (.getOutput k) (execGetOutput k s) := by
  unfold execGetOutput
  split
  · exact nextWrites_next ((kept s _).respond _ _)
  · exact nextWrites_outcomeOf_map fun _ _ => (kept s _).respond _ _

theorem execGetDecoderStatus_writes (k : BitVec 2) (s : State) :
    NextWrites s (.getDecoderStatus k) (execGetDecoderStatus k s) := by
  unfold execGetDecoderStatus
  split
  · exact nextWrites_next ((kept s _).respond _ _)
  · exact nextWrites_next ((kept s _).respond _ _)

/-- CLEAR_NEW_DATA clears the flag of the decoder its operand names (R372). -/
theorem execClearNewData_writes (k : BitVec 2) (s : State) : NextWrites s (.clearNewData k) (execClearNewData k s) := by
  rcases decoderOperand_cases k with ⟨rfl, _⟩ | ⟨rfl, _⟩ | ⟨rfl, _⟩ | ⟨rfl, _⟩
  · exact nextWrites_next ((kept s _).respond .range 0)
  · exact nextWrites_next { kept s _ with ppm := .clearNewData }
  · exact nextWrites_next { kept s _ with pcm := .clearNewData }
  · exact nextWrites_next { kept s _ with srxl := .clearNewData }

theorem execCfgWrite_writes (payload : List Byte) (s : State) :
    NextWrites s (.cfgWrite payload) (execCfgWrite payload s) := by
  unfold execCfgWrite
  split
  case isTrue hv => exact nextWrites_next ((Writes.cfgApply s _ (.inl ⟨payload, rfl⟩) hv).respond _ _)
  case isFalse => exact nextWrites_next (((kept s _).respond _ _).raiseError _ _)

theorem execCfgLoad_writes (payload : Option (List Byte)) (s : State) :
    NextWrites s (.cfgLoad payload) (execCfgLoad payload s) := by
  have loads : WritesCfg (.cfgLoad payload) := .inr (.inl ⟨payload, rfl⟩)
  cases payload with
  | none => exact nextWrites_next ((Writes.cfgApplyDefaults s loads).respond _ _)
  | some bytes =>
    unfold execCfgLoad
    dsimp only
    split
    case isTrue hv => exact nextWrites_next ((Writes.cfgApply s _ loads hv).respond _ _)
    case isFalse => exact nextWrites_next (((Writes.cfgApplyDefaults s loads).respond _ _).raiseError _ _)

/-- Everything an instruction can do to the units and the input port. -/
theorem exec_writes (i : Instr) (s : State) : NextWrites s i (exec i s) := by
  cases i with
  | edge r x => exact nextWrites_next { kept s _ with ppm := .edge r x, pcm := .edge r x }
  | uartByte d x => exact execUartByte_writes d x s
  | alarmPpm => exact nextWrites_next { kept s _ with ppm := .alarm }
  | alarmSrxl => exact nextWrites_next { kept s _ with srxl := .alarm }
  | tick => exact nextWrites_next { kept s _ with ppm := .tick, pcm := .tick, srxl := .tick }
  | update => exact nextWrites_next { kept s _ with agg := .inr (.inl rfl) }
  | getSource | getCount => exact nextWrites_next ((kept s _).respond _ _)
  | getInput k => exact execGetInput_writes k s
  | getOutput k => exact execGetOutput_writes k s
  | getDecoderStatus k => exact execGetDecoderStatus_writes k s
  | clearNewData k => exact execClearNewData_writes k s
  | cfgRead | cfgSave => exact nextWrites_next { kept s _ with }
  | cfgWrite payload => exact execCfgWrite_writes payload s
  | cfgDefault => exact nextWrites_next ((Writes.cfgApplyDefaults s (.inr (.inr (.inl rfl)))).respond _ _)
  | cfgLoad payload => exact execCfgLoad_writes payload s
  | reset => exact nextWrites_next ((Writes.resetUnits s).respond _ _)
  | reservedOp00 | reservedOp06 | reservedOp07 | reservedOp0F | reservedOp15 | reservedOp16 | reservedOp17
  | reservedOp18 | reservedOp19 | reservedOp1A | reservedOp1B | reservedOp1C | reservedOp1D | reservedOp1E =>
    exact nextWrites_next (.illegalWord s _)

/-! ### Ownership -/

variable {s : State} {i : Instr}

theorem PpmWrite.owner {u : Ppm} (h : PpmWrite s i u) (hne : u ≠ s.ppm) :
    (∃ r x, i = .edge r x) ∨ i = .alarmPpm ∨ i = .tick ∨ i = .clearNewData 1 ∨ i = .reset := by
  cases h with
  | kept => exact absurd rfl hne
  | edge r x => exact .inl ⟨r, x, rfl⟩
  | alarm | tick | clearNewData | reset => simp

theorem PcmWrite.owner {u : Pcm} (h : PcmWrite s i u) (hne : u ≠ s.pcm) :
    (∃ r x, i = .edge r x) ∨ i = .tick ∨ i = .clearNewData 2 ∨ i = .reset := by
  cases h with
  | kept => exact absurd rfl hne
  | edge r x => exact .inl ⟨r, x, rfl⟩
  | tick | clearNewData | reset => simp

theorem SrxlWrite.owner {u : Srxl} (h : SrxlWrite s i u) (hne : u ≠ s.srxl) :
    (∃ d x, i = .uartByte d x) ∨ i = .alarmSrxl ∨ i = .tick ∨ i = .clearNewData 3 ∨ i = .reset := by
  cases h with
  | kept => exact absurd rfl hne
  | byte d x => exact .inl ⟨d, x, rfl⟩
  | alarm | tick | clearNewData | reset => simp

theorem CfgWrite.owner {c : CfgRecord} (h : CfgWrite s i c) (hne : c ≠ s.cfg) : WritesCfg i := by
  cases h with
  | kept => exact absurd rfl hne
  | record _ hi _ => exact hi
  | defaults hi => exact hi

/-- Settles O58, by the list of what each instruction can leave in each unit. -/
theorem unitsAreWrittenByTheirOwners : Obligations.UnitsAreWrittenByTheirOwners := by
  intro i s t h
  have w := exec_writes i s t h
  exact ⟨w.ppm.owner, w.pcm.owner, w.srxl.owner, w.agg.resolve_left, w.cfg.owner,
    fun hne => (w.inp.resolve_left hne).1, w.input, w.params⟩

end Sys2Proof.Machine
end

section
/-! PROOFS. The banks (R90) and their publication (R121): one relation between a decoder before and after, proved once for
each procedure. That the stable banks are never written (O56) and that a flip is a publication (O57) are its parts. -/

namespace Sys2Proof.Machine

/-! ### The relation -/

/-- From the banks `old` with selector `sel` and count `n` to the banks `new` with `sel'` and `n'`: the side that was stable
is not written, a flip has `Published`, and a count changes to 0 or with a flip. -/
structure BankStep {α : Type} {w : Nat} (old new : Banks α) (sel sel' : Bool) (n n' : BitVec w) (Published : Prop) :
    Prop where
  stable : new.side (!sel) = old.side (!sel)
  flip   : sel' ≠ sel → Published
  count  : n' ≠ n → n' = 0 ∨ sel' ≠ sel

namespace BankStep

variable {α : Type} {w : Nat} {old new : Banks α} {sel : Bool} {n n' : BitVec w} {Published : Prop}

/-- A write to the active side, with the selector and the count kept. -/
theorem noFlip (hb : new.side (!sel) = old.side (!sel)) : BankStep old new sel sel n n Published :=
  ⟨hb, fun h => absurd rfl h, fun h => absurd rfl h⟩

/-- The count drops to 0, with the banks and the selector kept. -/
theorem countCleared : BankStep old old sel sel n 0 Published := ⟨rfl, fun h => absurd rfl h, fun _ => .inl rfl⟩

/-- A publication. -/
theorem published (hb : new.side (!sel) = old.side (!sel)) (hp : Published) :
    BankStep old new sel (!sel) n n' Published :=
  ⟨hb, fun _ => hp, fun _ => .inr (Bool.not_ne_self sel)⟩

end BankStep

/-- `BankStep` of a PPM decoder: a frame has at least `PPM_MIN_CHANNELS` channels, and at most `PPM_MAX_CHANNELS` if no more
were counted (R211, R212). -/
abbrev Ppm.BankStep (p : Params) (u v : Ppm) : Prop :=
  Machine.BankStep u.bank v.bank u.sel v.sel u.count v.count
    (v.newData = true ∧ v.receiving = true ∧ v.timeout = 0 ∧ p.ppmMinChannels ≤ v.count.toNat ∧
      (u.chIndex.toNat ≤ p.ppmMaxChannels → v.count.toNat ≤ p.ppmMaxChannels))

/-- `BankStep` of a PCM decoder: a frame has 8 or 10 channels (R270). -/
abbrev Pcm.BankStep (u v : Pcm) : Prop :=
  Machine.BankStep u.bank v.bank u.sel v.sel u.count v.count
    (v.newData = true ∧ v.receiving = true ∧ v.timeout = 0 ∧ (v.count = 8 ∨ v.count = 10))

/-- `BankStep` of an SRXL decoder: a frame has 12 or 16 channels (R311). -/
abbrev Srxl.BankStep (u v : Srxl) : Prop :=
  Machine.BankStep u.bank v.bank u.sel v.sel u.count v.count
    (v.newData = true ∧ v.receiving = true ∧ v.timeout = 0 ∧ (v.count = 12 ∨ v.count = 16))

/-! ### PPM -/

theorem ppmRecord_bankStep (p : Params) (width : U16) (u : Ppm) : u.BankStep p (ppmRecord p width u) := by
  rcases ppmRecord_cases p width u with ⟨_, e⟩ | ⟨_, e⟩ <;> rw [e]
  · exact .noFlip (Banks.side_write_not ..)
  · exact .noFlip rfl

theorem ppmCloseFrame_bankStep (p : Params) (u : Ppm) : u.BankStep p (ppmCloseFrame p u).1 := by
  rcases ppmCloseFrame_cases p u with ⟨hmin, e⟩ | ⟨_, e⟩ <;> rw [e]
  · exact .published rfl ⟨rfl, rfl, rfl, hmin, id⟩
  · exact .noFlip rfl

theorem ppmEdge_bankStep (p : Params) (c : CfgRecord) (t : U16) (r : Bool) (u : Ppm) :
    u.BankStep p (ppmEdge p c t r u).1 := by
  rcases ppmEdge_cases p c t r u with ⟨_, e⟩ | ⟨_, ⟨_, e⟩ | ⟨_, e⟩ | ⟨_, _, e⟩ | ⟨_, _, e⟩⟩ <;> rw [e]
  · exact .noFlip rfl
  · exact .noFlip rfl
  · exact .noFlip rfl
  · exact ppmRecord_bankStep p _ (ppmRearm p t (ppmThreshold p c) u)
  · exact ppmCloseFrame_bankStep p (ppmRearm p t (ppmThreshold p c) u)

theorem ppmAlarm_bankStep (p : Params) (u : Ppm) : u.BankStep p (ppmAlarm p u).1 := by
  rcases ppmAlarm_cases p u with ⟨_, e⟩ | ⟨_, ⟨_, e⟩ | ⟨_, e⟩ | ⟨_, e⟩⟩ <;> rw [e]
  · exact .noFlip rfl
  · exact .noFlip rfl
  · exact .noFlip rfl
  · exact ppmCloseFrame_bankStep p { u with alarmArmed := false }

theorem ppmTick_bankStep (p : Params) (u : Ppm) : u.BankStep p (ppmTick p u).1 := by
  unfold ppmTick
  split
  · exact .noFlip rfl
  · exact .noFlip rfl
  · exact .countCleared

theorem PpmWrite.bankStep {s : State} {i : Instr} {u : Ppm} (h : PpmWrite s i u) (hi : i ≠ .reset) :
    s.ppm.BankStep s.params u := by
  cases h with
  | kept | clearNewData => exact .noFlip rfl
  | edge r t => exact ppmEdge_bankStep ..
  | alarm => exact ppmAlarm_bankStep ..
  | tick => exact ppmTick_bankStep ..
  | reset => exact absurd rfl hi

/-! ### PCM -/

theorem pcmError_bankStep (c : Cause) (u : Pcm) : u.BankStep (pcmError c u).1 := .countCleared

theorem pcmAccept_bankStep {n : BitVec 4} (hn : n = 8 ∨ n = 10) (u : Pcm) : u.BankStep (pcmAccept n u).1 :=
  .published rfl ⟨rfl, rfl, rfl, hn⟩

/-- Relocation reads the stable bank and writes the active one (R273). -/
theorem pcmRelocate_stable (u : Pcm) : (pcmRelocate u).bank.side (!u.sel) = u.bank.side (!u.sel) := by
  simp only [pcmRelocate, Banks.side_copy_not]

theorem pcmFinish_bankStep (u : Pcm) : u.BankStep (pcmFinish u).1 := by
  rcases pcmFinish_cases u with ⟨_, e⟩ | ⟨_, e⟩ | ⟨_, _, e⟩ <;> rw [e]
  · exact pcmAccept_bankStep (.inl rfl) u
  · exact .published (pcmRelocate_stable u) ⟨rfl, rfl, rfl, .inr rfl⟩
  · exact pcmError_bankStep _ u

theorem pcmTrailer_bankStep (bits : BitVec 8) (u : Pcm) : u.BankStep (pcmTrailer bits u).1 := by
  rcases pcmTrailer_cases bits u with ⟨_, e⟩ | ⟨_, e⟩ <;> rw [e]
  · exact .noFlip rfl
  · exact pcmFinish_bankStep { u with acc := ((u.acc <<< 2) ||| bits) &&& 0x0F, symInByte := u.symInByte + 1 }

theorem pcmTake_bankStep (p : Params) (bits : BitVec 8) (u : Pcm) : u.BankStep (pcmTake p bits u).1 := by
  rcases pcmTake_cases p bits u with ⟨_, _, e⟩ | ⟨_, _, _, e⟩ | ⟨_, _, _, e⟩ | ⟨_, e⟩ <;> rw [e]
  · exact .noFlip rfl
  · exact .noFlip (Banks.side_write_not ..)
  · exact pcmError_bankStep _ u
  · exact pcmTrailer_bankStep bits u

theorem pcmSymbol_bankStep (p : Params) (sym : Nat) {u : Pcm} (h : u.state ≠ .wfs) : u.BankStep (pcmSymbol p sym u).1 := by
  rcases pcmSymbol_cases p sym h with e | ⟨bits, e⟩ <;> rw [e]
  · exact pcmError_bankStep _ u
  · exact pcmTake_bankStep p bits { u with state := .rd, lastBits := bits.setWidth 2 }

theorem pcmEdge_bankStep (p : Params) (t : U16) (r : Bool) (u : Pcm) : u.BankStep (pcmEdge p t r u).1 := by
  rcases pcmEdge_cases p t r u with ⟨_, e⟩ | ⟨_, _, e⟩ | ⟨_, _, _, e⟩ | ⟨_, _, hs, e⟩ <;> rw [e]
  · exact .noFlip rfl
  · exact .noFlip rfl
  · exact .noFlip rfl
  · exact pcmSymbol_bankStep p _ (u := { u with lastEdge := truncTicks p t }) hs

theorem pcmTick_bankStep (p : Params) (u : Pcm) : u.BankStep (pcmTick p u).1 := by
  unfold pcmTick
  split
  · exact .noFlip rfl
  · exact .noFlip rfl
  · exact .countCleared

theorem PcmWrite.bankStep {s : State} {i : Instr} {u : Pcm} (h : PcmWrite s i u) (hi : i ≠ .reset) :
    s.pcm.BankStep u := by
  cases h with
  | kept | clearNewData => exact .noFlip rfl
  | edge r t => exact pcmEdge_bankStep ..
  | tick => exact pcmTick_bankStep ..
  | reset => exact absurd rfl hi

/-! ### SRXL -/

theorem srxlHeader_bankStep (d : Byte) (u : Srxl) : u.BankStep (srxlHeader d u).1 := by
  rcases srxlHeader_cases d u with ⟨_, e⟩ | ⟨_, e⟩ | ⟨_, _, e⟩ <;> rw [e]
  · exact .noFlip (Banks.side_write_not ..)
  · exact .noFlip (Banks.side_write_not ..)
  · exact .noFlip rfl

theorem srxlStore_bankStep {d : Byte} {u : Srxl} {r : Srxl × List Word} (h : srxlStore d u = .ok r) :
    u.BankStep r.1 := by
  have stable := Banks.side_write_not _ u.bank u.sel u.byteIndex.toNat d
  rcases srxlStore_eq_ok h with ⟨_, rfl⟩ | h
  · exact .noFlip stable
  · rcases srxlCheck_eq_ok h with ⟨n, hn, rfl⟩ | rfl
    · exact .published stable ⟨rfl, rfl, rfl, hn⟩
    · exact .noFlip stable

theorem srxlByte_bankStep {p : Params} {d : Byte} {t : U16} {u : Srxl} {r : Srxl × List Word}
    (h : srxlByte p d t u = .ok r) : u.BankStep r.1 := by
  rcases srxlByte_cases p d t u with ⟨_, e⟩ | ⟨_, e⟩ | ⟨_, e⟩ <;> rw [e] at h
  · cases h
    exact .noFlip rfl
  · cases h
    exact srxlHeader_bankStep d (srxlRearm p t u)
  · exact srxlStore_bankStep (u := srxlRearm p t u) h

theorem srxlAlarm_bankStep (u : Srxl) : u.BankStep (srxlAlarm u).1 := by
  rcases srxlAlarm_cases u with ⟨_, e⟩ | ⟨_, ⟨_, e⟩ | ⟨_, e⟩ | ⟨_, e⟩⟩ <;> rw [e] <;> exact .noFlip rfl

theorem srxlTick_bankStep (p : Params) (u : Srxl) : u.BankStep (srxlTick p u).1 := by
  unfold srxlTick
  split
  · exact .noFlip rfl
  · exact .noFlip rfl
  · exact .countCleared

theorem SrxlWrite.bankStep {s : State} {i : Instr} {u : Srxl} (h : SrxlWrite s i u) (hi : i ≠ .reset) :
    s.srxl.BankStep u := by
  cases h with
  | kept | clearNewData => exact .noFlip rfl
  | byte d t r hr => exact srxlByte_bankStep hr
  | alarm => exact srxlAlarm_bankStep _
  | tick => exact srxlTick_bankStep ..
  | reset => exact absurd rfl hi

/-! ### The statements -/

/-- Settles O56, by the bank step of each decoder. -/
theorem stableBanksAreNeverWritten : Obligations.StableBanksAreNeverWritten := by
  intro i s t hi h
  have w := exec_writes i s t h
  exact ⟨(w.ppm.bankStep hi).stable, (w.pcm.bankStep hi).stable, (w.srxl.bankStep hi).stable⟩

/-- Settles O57, by the bank step of each decoder. -/
theorem flipIsPublication : Obligations.FlipIsPublication := by
  intro i s t hi h
  have w := exec_writes i s t h
  have ppm := w.ppm.bankStep hi
  have pcm := w.pcm.bankStep hi
  have srxl := w.srxl.bankStep hi
  exact ⟨ppm.flip, pcm.flip, srxl.flip, ppm.count, pcm.count, srxl.count⟩

end Sys2Proof.Machine
end

section
/-! PROOFS. The invariant of the registers (O11): for each unit, every procedure that writes it keeps its part of
`State.Inv`; an instruction then does by `exec_writes`, and a step by `step_eq_next_cases`. -/

namespace Sys2Proof.Machine

/-! ### The configuration record -/

theorem CfgWrite.legal {s : State} {i : Instr} {c : CfgRecord} (h : CfgWrite s i c) (hp : s.params.Admitted)
    (hc : s.cfg.Legal s.params) : c.Legal s.params := by
  cases h with
  | kept => exact hc
  | record bytes _ hv => exact of_decide_eq_true hv
  | defaults =>
    rw [decodeRecord_encodeRecord s.params (cfgDefaults s.params) (cfgDefaults_mapping_length s.params)]
    exact cfgDefaults_legal hp

/-! ### PPM -/

namespace Ppm.Inv

variable {p : Params} {u : Ppm}

theorem reset (hp : p.Admitted) : (Ppm.reset p).Inv p where
  chIndex_zero := fun _ => rfl
  bank_size    := Banks.zero_sized _
  chIndex_le   := Nat.zero_le _
  count_range  := .inl rfl
  timeout_le   := Nat.mod_le _ _
  sd_unarmed   := nofun
  count_live   := fun h => absurd rfl h
  newData_live := nofun
  idle_expired := fun _ => Nat.mod_eq_of_lt hp.ppm_lt.2

theorem clearNewData (h : u.Inv p) : Ppm.Inv p { u with newData := false } := { h with newData_live := nofun }

theorem disarmed (h : u.Inv p) : Ppm.Inv p { u with alarmArmed := false } := { h with sd_unarmed := fun _ => rfl }

theorem record (hp : p.Admitted) (h : u.Inv p) (hs : u.state = .rd) (width : U16) : (ppmRecord p width u).Inv p := by
  rcases ppmRecord_cases p width u with ⟨hlt, e⟩ | ⟨_, e⟩ <;> rw [e]
  · have hmax := hp.ppm_lt.1
    have next : (u.chIndex + 1).toNat = u.chIndex.toNat + 1 := by bv_omega
    exact { h with
      chIndex_zero := fun hne => absurd hs hne
      bank_size := (Banks.write_sized ..).mpr h.bank_size
      chIndex_le := next.trans_le hlt }
  · exact h

theorem closeFrame (h : u.Inv p) : (ppmCloseFrame p u).1.Inv p := by
  rcases ppmCloseFrame_cases p u with ⟨hmin, e⟩ | ⟨_, e⟩ <;> rw [e]
  · exact { h with
      chIndex_zero := fun _ => rfl
      chIndex_le := Nat.zero_le _
      count_range := .inr ⟨hmin, h.chIndex_le⟩
      timeout_le := Nat.zero_le _
      count_live := fun _ => rfl
      newData_live := fun _ => rfl
      idle_expired := nofun }
  · exact { h with chIndex_zero := fun _ => rfl, chIndex_le := Nat.zero_le _ }

theorem rearm (h : u.Inv p) (hs : u.state ≠ .sd) (t thr : U16) : (ppmRearm p t thr u).Inv p :=
  { h with sd_unarmed := fun hsd => absurd hsd hs }

theorem edge (hp : p.Admitted) (h : u.Inv p) (c : CfgRecord) (t : U16) (r : Bool) : (ppmEdge p c t r u).1.Inv p := by
  rcases ppmEdge_cases p c t r u with ⟨_, e⟩ | ⟨_, ⟨hs, e⟩ | ⟨hs, e⟩ | ⟨hs, _, e⟩ | ⟨hs, _, e⟩⟩ <;> rw [e]
  · exact h
  · exact h.rearm (by simp [hs]) _ _
  · exact { h with chIndex_zero := fun _ => h.chIndex_zero (by simp [hs]), sd_unarmed := nofun }
  · exact (h.rearm (by simp [hs]) _ _).record hp hs _
  · exact (h.rearm (by simp [hs]) _ _).closeFrame

theorem alarm (h : u.Inv p) : (ppmAlarm p u).1.Inv p := by
  rcases ppmAlarm_cases p u with ⟨_, e⟩ | ⟨_, ⟨hs, e⟩ | ⟨_, e⟩ | ⟨_, e⟩⟩ <;> rw [e]
  · exact h
  · exact { h with chIndex_zero := fun _ => h.chIndex_zero (by simp [hs]), sd_unarmed := fun _ => rfl }
  · exact h.disarmed
  · obtain ⟨hch, harmed⟩ := ppmCloseFrame_frame p { u with alarmArmed := false }
    exact { h.disarmed.closeFrame with chIndex_zero := fun _ => hch, sd_unarmed := fun _ => harmed }

theorem tick (hp : p.Admitted) (h : u.Inv p) : (ppmTick p u).1.Inv p := by
  rcases ppmTick_cases p u hp.ppm_lt.2 with ⟨_, e⟩ | ⟨hlt, hnext, e⟩ | ⟨_, hlimit, e⟩ <;> rw [e]
  · exact h
  · exact { h with
      timeout_le := hnext.trans_le (by omega)
      idle_expired := fun hr => absurd (h.idle_expired hr) (by omega) }
  · exact { h with
      chIndex_zero := fun _ => rfl
      chIndex_le := Nat.zero_le _
      count_range := .inl rfl
      timeout_le := hlimit.le
      sd_unarmed := nofun
      count_live := fun hc => absurd rfl hc
      newData_live := nofun
      idle_expired := fun _ => hlimit }

end Ppm.Inv

theorem PpmWrite.inv {s : State} {i : Instr} {u : Ppm} (w : PpmWrite s i u) (hp : s.params.Admitted)
    (h : s.ppm.Inv s.params) : u.Inv s.params := by
  cases w with
  | kept => exact h
  | edge r t => exact h.edge hp _ t r
  | alarm => exact h.alarm
  | tick => exact h.tick hp
  | clearNewData => exact h.clearNewData
  | reset => exact .reset hp

/-! ### PCM -/

namespace Pcm.Inv

variable {p : Params} {u : Pcm}

theorem reset (hp : p.Admitted) : (Pcm.reset p).Inv p where
  counters_zero := fun _ => ⟨rfl, rfl, rfl, rfl⟩
  bank_size     := Banks.zero_sized _
  byteIndex_le  := Nat.zero_le _
  symInByte_le  := Nat.zero_le _
  trailer_syms  := fun _ => Nat.zero_le _
  count_values  := .inl rfl
  timeout_le    := Nat.mod_le _ _
  count_live    := fun h => absurd rfl h
  newData_live  := nofun
  idle_expired  := fun _ => Nat.mod_eq_of_lt hp.pcm_lt.2

theorem clearNewData (h : u.Inv p) : Pcm.Inv p { u with newData := false } := { h with newData_live := nofun }

/-- Frame counters at 0 are right in every state of the decoder (R57). -/
theorem cleared (h : u.Inv p) (st : DecoderState) : Pcm.Inv p { pcmClearCounters u with state := st } :=
  { h with
    counters_zero := fun _ => ⟨rfl, rfl, rfl, rfl⟩
    byteIndex_le := Nat.zero_le _
    symInByte_le := Nat.zero_le _
    trailer_syms := fun _ => Nat.zero_le _ }

theorem error (h : u.Inv p) (c : Cause) : (pcmError c u).1.Inv p :=
  { h.cleared .wfs with count_values := .inl rfl, count_live := fun hc => absurd rfl hc }

theorem accept (h : u.Inv p) {n : BitVec 4} (hn : n = 8 ∨ n = 10) : (pcmAccept n u).1.Inv p :=
  { h.cleared .wfs with
    count_values := .inr hn
    timeout_le := Nat.zero_le _
    count_live := fun _ => rfl
    newData_live := fun _ => rfl
    idle_expired := nofun }

theorem relocate (h : u.Inv p) : (pcmRelocate u).Inv p := { h with bank_size := (pcmRelocate_sized u _).mpr h.bank_size }

/-- The second trailer symbol ends the frame: what it leaves in `acc` and `symInByte` chooses the ending and is cleared. -/
theorem finish (h : u.Inv p) (acc : BitVec 8) (k : BitVec 3) :
    (pcmFinish { u with acc := acc, symInByte := k }).1.Inv p := by
  rcases pcmFinish_cases { u with acc := acc, symInByte := k } with ⟨_, e⟩ | ⟨_, e⟩ | ⟨_, _, e⟩ <;> rw [e]
  · exact h.accept (.inl rfl)
  · exact h.relocate.accept (.inr rfl)
  · exact h.error _

theorem trailer (h : u.Inv p) (hs : u.state = .rd) (hb : u.byteIndex.toNat = p.pcmDataBytes) (bits : BitVec 8) :
    (pcmTrailer bits u).1.Inv p := by
  have syms := h.trailer_syms hb
  rcases pcmTrailer_cases bits u with ⟨hne, e⟩ | ⟨_, e⟩ <;> rw [e]
  · have first : (u.symInByte + 1).toNat ≤ 1 := by bv_omega
    exact { h with
      counters_zero := fun hrd => absurd hs hrd
      symInByte_le := first.trans (by omega)
      trailer_syms := fun _ => first }
  · exact h.finish _ _

theorem take (hp : p.Admitted) (h : u.Inv p) (hs : u.state = .rd) (bits : BitVec 8) : (pcmTake p bits u).1.Inv p := by
  have hbytes := hp.pcm_lt.1
  rcases pcmTake_cases p bits u with ⟨hlt, h4, e⟩ | ⟨hlt, _, _, e⟩ | ⟨_, _, _, e⟩ | ⟨hle, e⟩ <;> rw [e]
  · have next : (u.symInByte + 1).toNat ≤ 4 := by bv_omega
    exact { h with
      counters_zero := fun hrd => absurd hs hrd
      symInByte_le := next
      trailer_syms := fun hb => absurd hb hlt.ne }
  · have next : (u.byteIndex + 1).toNat = u.byteIndex.toNat + 1 := by bv_omega
    exact { h with
      counters_zero := fun hrd => absurd hs hrd
      bank_size := (Banks.write_sized ..).mpr h.bank_size
      byteIndex_le := next.trans_le hlt
      symInByte_le := Nat.zero_le _
      trailer_syms := fun _ => Nat.zero_le _ }
  · exact h.error _
  · exact h.trailer hs (h.byteIndex_le.antisymm hle) bits

theorem symbol (hp : p.Admitted) (h : u.Inv p) (hs : u.state ≠ .wfs) (sym : Nat) : (pcmSymbol p sym u).1.Inv p := by
  rcases pcmSymbol_cases p sym hs with e | ⟨bits, e⟩ <;> rw [e]
  · exact h.error _
  · exact take (u := { u with state := .rd, lastBits := bits.setWidth 2 }) hp
      { h with counters_zero := fun hrd => absurd rfl hrd } rfl bits

theorem edge (hp : p.Admitted) (h : u.Inv p) (t : U16) (r : Bool) : (pcmEdge p t r u).1.Inv p := by
  rcases pcmEdge_cases p t r u with ⟨_, e⟩ | ⟨_, _, e⟩ | ⟨_, _, _, e⟩ | ⟨_, _, hs, e⟩ <;> rw [e]
  · exact { h with }
  · exact { h.cleared .sd with }
  · exact { h with }
  · exact symbol (u := { u with lastEdge := truncTicks p t }) hp { h with } hs _

theorem tick (hp : p.Admitted) (h : u.Inv p) : (pcmTick p u).1.Inv p := by
  rcases pcmTick_cases p u hp.pcm_lt.2 with ⟨_, e⟩ | ⟨hlt, hnext, e⟩ | ⟨_, hlimit, e⟩ <;> rw [e]
  · exact h
  · exact { h with
      timeout_le := hnext.trans_le (by omega)
      idle_expired := fun hr => absurd (h.idle_expired hr) (by omega) }
  · exact { h.cleared .wfs with
      count_values := .inl rfl
      timeout_le := hlimit.le
      count_live := fun hc => absurd rfl hc
      newData_live := nofun
      idle_expired := fun _ => hlimit }

end Pcm.Inv

theorem PcmWrite.inv {s : State} {i : Instr} {u : Pcm} (w : PcmWrite s i u) (hp : s.params.Admitted)
    (h : s.pcm.Inv s.params) : u.Inv s.params := by
  cases w with
  | kept => exact h
  | edge r t => exact h.edge hp t r
  | tick => exact h.tick hp
  | clearNewData => exact h.clearNewData
  | reset => exact .reset hp

/-! ### SRXL -/

namespace Srxl.Inv

variable {p : Params} {u : Srxl}

theorem reset (hp : p.Admitted) : (Srxl.reset p).Inv p where
  counters_zero := fun _ => ⟨rfl, rfl⟩
  bank_size     := Banks.zero_sized _
  frame_length  := nofun
  byteIndex_lt  := nofun
  count_values  := .inl rfl
  timeout_le    := Nat.mod_le _ _
  sd_unarmed    := nofun
  count_live    := fun h => absurd rfl h
  newData_live  := nofun
  idle_expired  := fun _ => Nat.mod_eq_of_lt hp.srxlTimeout_lt

theorem clearNewData (h : u.Inv p) : Srxl.Inv p { u with newData := false } := { h with newData_live := nofun }

theorem disarmed (h : u.Inv p) : Srxl.Inv p { u with alarmArmed := false } := { h with sd_unarmed := fun _ => rfl }

/-- Frame counters at 0 are right in WFS, with the alarm as it may be (R67). -/
theorem cleared (h : u.Inv p) : Srxl.Inv p { srxlClearCounters u with state := .wfs } :=
  { h with
    counters_zero := fun _ => ⟨rfl, rfl⟩
    frame_length := nofun
    byteIndex_lt := nofun
    sd_unarmed := nofun }

theorem error (h : u.Inv p) (c : Cause) : (srxlError c u).1.Inv p := { h.cleared with }

theorem accept (h : u.Inv p) {n : BitVec 5} (hn : n = 12 ∨ n = 16) : (srxlAccept n u).1.Inv p :=
  { h.cleared with
    count_values := .inr hn
    timeout_le := Nat.zero_le _
    count_live := fun _ => rfl
    newData_live := fun _ => rfl
    idle_expired := nofun }

/-- A header starts RD with one byte of a 27-byte or 35-byte frame stored (R305), the alarm re-armed (R303). -/
theorem framed (h : u.Inv p) {n : BitVec 6} (hn : n = 27 ∨ n = 35) (t : U16) (d : Byte) :
    Srxl.Inv p
      { srxlRearm p t u with expected := n, bank := u.bank.write u.sel 0 d, byteIndex := 1, state := .rd } :=
  have longer : 1 < n.toNat := by rcases hn with rfl | rfl <;> decide
  { h with
    counters_zero := fun hrd => absurd rfl hrd
    bank_size := (Banks.write_sized ..).mpr h.bank_size
    frame_length := fun _ => hn
    byteIndex_lt := fun _ => ⟨Nat.le_refl 1, longer⟩
    sd_unarmed := nofun }

theorem header (h : u.Inv p) (t : U16) (d : Byte) : (srxlHeader d (srxlRearm p t u)).1.Inv p := by
  rcases srxlHeader_cases d (srxlRearm p t u) with ⟨_, e⟩ | ⟨_, e⟩ | ⟨_, _, e⟩ <;> rw [e]
  · exact h.framed (.inl rfl) t d
  · exact h.framed (.inr rfl) t d
  · exact { h.cleared with sd_unarmed := nofun }

theorem store (h : u.Inv p) (hs : u.state = .rd) {d : Byte} {r : Srxl × List Word} (hr : srxlStore d u = .ok r) :
    r.1.Inv p := by
  have stored : Srxl.Inv p { u with bank := u.bank.write u.sel u.byteIndex.toNat d } :=
    { h with bank_size := (Banks.write_sized ..).mpr h.bank_size }
  rcases srxlStore_eq_ok hr with ⟨hne, rfl⟩ | hr
  · have inside : 1 ≤ (u.byteIndex + 1).toNat ∧ (u.byteIndex + 1).toNat < u.expected.toNat := by
      have := h.byteIndex_lt hs
      bv_omega
    exact { stored with counters_zero := fun hrd => absurd hs hrd, byteIndex_lt := fun _ => inside }
  · rcases srxlCheck_eq_ok hr with ⟨n, hn, rfl⟩ | rfl
    · exact stored.accept hn
    · exact stored.error .srxlCrc

theorem rearm (h : u.Inv p) (hs : u.state ≠ .sd) (t : U16) : (srxlRearm p t u).Inv p :=
  { h with sd_unarmed := fun hsd => absurd hsd hs }

theorem byte (h : u.Inv p) {d : Byte} {t : U16} {r : Srxl × List Word} (hr : srxlByte p d t u = .ok r) : r.1.Inv p := by
  rcases srxlByte_cases p d t u with ⟨hs, e⟩ | ⟨_, e⟩ | ⟨hs, e⟩ <;> rw [e] at hr
  · cases hr
    exact h.rearm (by simp [hs]) t
  · cases hr
    exact h.header t d
  · exact (h.rearm (by simp [hs]) t).store hs hr

theorem alarm (h : u.Inv p) : (srxlAlarm u).1.Inv p := by
  rcases srxlAlarm_cases u with ⟨_, e⟩ | ⟨_, ⟨hs, e⟩ | ⟨_, e⟩ | ⟨_, e⟩⟩ <;> rw [e]
  · exact h
  · exact { h with
      counters_zero := fun _ => h.counters_zero (by simp [hs])
      frame_length := nofun
      byteIndex_lt := nofun
      sd_unarmed := fun _ => rfl }
  · exact h.disarmed
  · exact { h with
      counters_zero := fun _ => ⟨rfl, rfl⟩
      frame_length := nofun
      byteIndex_lt := nofun
      sd_unarmed := fun _ => rfl }

theorem tick (hp : p.Admitted) (h : u.Inv p) : (srxlTick p u).1.Inv p := by
  rcases srxlTick_cases p u hp.srxlTimeout_lt with ⟨_, e⟩ | ⟨hlt, hnext, e⟩ | ⟨_, hlimit, e⟩ <;> rw [e]
  · exact h
  · exact { h with
      timeout_le := hnext.trans_le (by omega)
      idle_expired := fun hr => absurd (h.idle_expired hr) (by omega) }
  · exact { h.cleared with
      count_values := .inl rfl
      timeout_le := hlimit.le
      count_live := fun hc => absurd rfl hc
      newData_live := nofun
      idle_expired := fun _ => hlimit }

end Srxl.Inv

theorem SrxlWrite.inv {s : State} {i : Instr} {u : Srxl} (w : SrxlWrite s i u) (hp : s.params.Admitted)
    (h : s.srxl.Inv s.params) : u.Inv s.params := by
  cases w with
  | kept => exact h
  | byte d t r hr => exact h.byte hr
  | alarm => exact h.alarm
  | tick => exact h.tick hp
  | clearNewData => exact h.clearNewData
  | reset => exact .reset hp

/-! ### The input assembler -/

/-- The input assembler behind the arrival of a word. -/
def Arrival.inp : Arrival → Inp
  | .collecting u => u
  | .complete _ _ u => u

/-- Only the two forms with a payload have payload words, `W` of them (R150). -/
theorem payloadCount_of_ne_zero {W : Nat} {w : Word} (h : payloadCount W w ≠ 0) :
    (w = 0x88000000 ∨ w = 0xA0000001) ∧ payloadCount W w = W := by
  unfold payloadCount at h ⊢
  split
  case isTrue hw => exact ⟨hw, rfl⟩
  case isFalse hw => exact absurd (if_neg hw) h

namespace Inp.Inv

variable {p : Params} {u : Inp}

/-- Waiting for nothing, with an empty buffer. -/
theorem idle (op : Word) : Inp.Inv p ⟨0, op, List.replicate (4 * p.payloadWords) 0⟩ where
  need_le   := Nat.zero_le _
  buf_size  := List.length_replicate
  waits_for := fun h => absurd rfl h
  idle_zero := fun _ => rfl

theorem arrive (hp : p.Admitted) (h : u.Inv p) (w : Word) : (Machine.arrive p u w).inp.Inv p := by
  rcases arrive_cases p u w with ⟨_, _, e⟩ | ⟨_, hc, e⟩ | ⟨_, e⟩ | ⟨h0, h1, e⟩ <;> rw [e]
  · exact h
  · obtain ⟨hw, hW⟩ := payloadCount_of_ne_zero hc
    have need : (BitVec.ofNat 8 (payloadCount p.payloadWords w)).toNat = p.payloadWords := by
      rw [hW]
      exact Nat.mod_eq_of_lt hp.payloadWords_lt
    exact { h with
      need_le := need.le
      waits_for := fun _ => hw
      idle_zero := fun hz => absurd (need.symm.trans (congrArg BitVec.toNat hz)) (hW ▸ hc) }
  · exact idle u.op
  · have need : (u.need - 1).toNat + 1 = u.need.toNat ∧ u.need - 1 ≠ 0 := by bv_omega
    exact { h with
      need_le := Nat.le_of_lt (need.1.trans_le h.need_le)
      buf_size := (overwrite_length ..).trans h.buf_size
      waits_for := fun _ => h.waits_for h0
      idle_zero := fun hz => absurd hz need.2 }

end Inp.Inv

/-! ### Instructions and steps -/

/-- Every instruction keeps the invariant. -/
theorem exec_inv {s t : State} {i : Instr} (hs : s.Inv) (h : exec i s = .next t) : t.Inv := by
  have w := exec_writes i s t h
  have hp := hs.admitted
  have inp : t.inp.Inv s.params := by
    rcases w.inp with e | ⟨_, e⟩ <;> rw [e]
    · exact hs.inp
    · exact .idle 0
  exact {
    admitted := w.params ▸ hp
    legal := w.params ▸ w.cfg.legal hp hs.legal
    ppm := w.params ▸ w.ppm.inv hp hs.ppm
    pcm := w.params ▸ w.pcm.inv hp hs.pcm
    srxl := w.params ▸ w.srxl.inv hp hs.srxl
    inp := w.params ▸ inp }

/-- A word that arrives leaves the invariant to what it completes. -/
theorem State.Inv.take {s : State} (hs : s.Inv) (w : Word) (rest : List Word) :
    ((s.withInput rest).withInp (arrive s.params s.inp w).inp).Inv :=
  { hs with inp := hs.inp.arrive hs.admitted w }

/-- Settles O11, by the cases of a step: nothing happens, a word is collected, or a whole instruction or an illegal word
runs behind the arrival. -/
theorem everyStepKeepsInvariant : Obligations.EveryStepKeepsInvariant := by
  intro s t hs h
  obtain ⟨_, ⟨_, _, rfl⟩ | ⟨w, rest, _, hw⟩⟩ := step_eq_next_cases s t h
  · exact hs
  · have taken := hs.take w rest
    obtain ⟨u, ha, rfl⟩ | ⟨op, payload, u, ha, ⟨i, _, hexec⟩ | ⟨_, rfl⟩⟩ := hw <;> rw [ha] at taken
    · exact taken
    · exact exec_inv taken hexec
    · exact { taken with }

end Sys2Proof.Machine
end

section
/-! PROOFS. Record bytes and payload words (R104, R105): the record image by byte offset (O5), and the place of each byte in
the payload words (O6). -/

namespace Sys2Proof

/-! ### Payload words -/

/-- Byte `j` of a word is bits `8 j + 7 : 8 j` (R105). -/
theorem bytesOfWord_getD (w : Word) {j : Nat} (hj : j < 4) : (bytesOfWord w).getD j 0 = w.extractLsb' (8 * j) 8 := by
  match j, hj with
  | 0, _ | 1, _ | 2, _ | 3, _ => rfl

/-- Byte `k` of some payload words is byte `k mod 4` of word `k / 4` (R105). -/
theorem bytesOfWords_getD (ws : List Word) {k : Nat} (hk : k < 4 * ws.length) :
    (bytesOfWords ws).getD k 0 = (ws.getD (k / 4) 0).extractLsb' (8 * (k % 4)) 8 := by
  induction ws generalizing k with
  | nil => exact absurd hk (Nat.not_lt_zero k)
  | cons w ws ih =>
    rw [bytesOfWords]
    by_cases h : k < 4
    · rw [List.getD_append _ _ _ _ h, bytesOfWord_getD w h, Nat.div_eq_of_lt h, Nat.mod_eq_of_lt h]
      rfl
    · obtain ⟨j, rfl⟩ : ∃ j, k = j + 4 := ⟨k - 4, by omega⟩
      rw [List.length_cons] at hk
      rw [List.getD_append_right _ _ _ _ (Nat.le_add_left 4 j), bytesOfWord_length, Nat.add_sub_cancel, ih (by omega),
        Nat.add_div_right j (by decide), List.getD_cons_succ, Nat.add_mod_right]

/-- The bytes of the payload words that carry `bs` are `bs` and zero pad bytes (R105). -/
theorem bytesOfWords_wordsOfBytes_eq_append :
    ∀ bs : List Byte, ∃ n, bytesOfWords (wordsOfBytes bs) = bs ++ List.replicate n 0
  | [] => ⟨0, rfl⟩
  | [b0] => ⟨3, congrArg (· ++ []) (bytesOfWord_wordOfBytes b0 0 0 0)⟩
  | [b0, b1] => ⟨2, congrArg (· ++ []) (bytesOfWord_wordOfBytes b0 b1 0 0)⟩
  | [b0, b1, b2] => ⟨1, congrArg (· ++ []) (bytesOfWord_wordOfBytes b0 b1 b2 0)⟩
  | b0 :: b1 :: b2 :: b3 :: bs => by
    obtain ⟨n, h⟩ := bytesOfWords_wordsOfBytes_eq_append bs
    exact ⟨n, by rw [wordsOfBytes, bytesOfWords, bytesOfWord_wordOfBytes, h]; rfl⟩

/-- Zero pad bytes read as the bytes a list does not have. -/
theorem getD_append_zeros (bs : List Byte) (n k : Nat) : (bs ++ List.replicate n 0).getD k 0 = bs.getD k 0 := by
  by_cases h : k < bs.length
  · rw [List.getD_append _ _ _ _ h]
  · have behind : bs.length ≤ k := Nat.le_of_not_lt h
    rw [List.getD_append_right _ _ _ _ behind, List.getD_eq_default _ _ behind, List.getD_eq_getElem?_getD,
      List.getElem?_getD_replicate_default_eq]

/-- Byte `k` of a list, or a pad byte 0 behind it, is its place in the payload words (R105). -/
theorem wordsOfBytes_getD (bs : List Byte) {k : Nat} (hk : k < 4 * (wordsOfBytes bs).length) :
    ((wordsOfBytes bs).getD (k / 4) 0).extractLsb' (8 * (k % 4)) 8 = bs.getD k 0 := by
  obtain ⟨n, h⟩ := bytesOfWords_wordsOfBytes_eq_append bs
  rw [← bytesOfWords_getD _ hk, h, getD_append_zeros]

namespace Machine

/-- The pad bytes behind a record are not part of the operand (R105). -/
theorem recordOperand_append_pad {p : Params} {r : List Byte} (h : r.length = p.configSize) (pad : List Byte) :
    recordOperand p (r ++ pad) = r :=
  List.take_left' h

theorem execCfgWrite_congr {s : State} {bs bs' : List Byte} (h : recordOperand s.params bs = recordOperand s.params bs') :
    execCfgWrite bs s = execCfgWrite bs' s := by
  simp only [execCfgWrite, h]

theorem execCfgLoad_congr {s : State} {bs bs' : List Byte} (h : recordOperand s.params bs = recordOperand s.params bs') :
    execCfgLoad (some bs) s = execCfgLoad (some bs') s := by
  simp only [execCfgLoad, h]

/-- Settles O6: byte `k` of the words by induction on the words, and pad bytes by the record operand. -/
theorem payloadWordsCarryRecordBytes : Obligations.PayloadWordsCarryRecordBytes := by
  refine ⟨fun p r hr => ?_, fun ws k => bytesOfWords_getD ws, fun s r pad pad' hr => ?_⟩
  · have words : (wordsOfBytes r).length = p.payloadWords := by rw [wordsOfBytes_length, hr, Params.payloadWords]
    exact ⟨words, fun k hk => wordsOfBytes_getD r (words ▸ hk)⟩
  · have sameRecord : recordOperand s.params (r ++ pad) = recordOperand s.params (r ++ pad') := by
      rw [recordOperand_append_pad hr, recordOperand_append_pad hr]
    exact ⟨execCfgWrite_congr sameRecord, execCfgLoad_congr sameRecord⟩

/-! ### The record image -/

/-- A 16-bit field is written back as the two bytes it was read from (R104). -/
theorem leBytes_recField (bs : List Byte) (k : Nat) : leBytes (recField bs k) = [recByte bs k, recByte bs (k + 1)] := by
  rw [leBytes, recField, BitVec.extractLsb'_append_eq_right, BitVec.extractLsb'_append_eq_left]

/-- The image of the record that some bytes hold is the first `CONFIG_SIZE` of these bytes, one by one (R104). -/
theorem encodeRecord_decodeRecord_eq_map (p : Params) (bs : List Byte) :
    encodeRecord (decodeRecord p bs) = (List.range (14 + p.maxOutputChannels)).map (recByte bs) := by
  rw [List.range_add, List.map_append, List.map_map]
  simp only [encodeRecord, decodeRecord, leBytes_recField]
  rfl

/-- A list of `CONFIG_SIZE` bytes is the image of the record it holds (R104). -/
theorem encodeRecord_decodeRecord {p : Params} {r : List Byte} (h : r.length = 14 + p.maxOutputChannels) :
    encodeRecord (decodeRecord p r) = r := by
  rw [encodeRecord_decodeRecord_eq_map]
  refine List.ext_getElem (by rw [List.length_map, List.length_range, h]) fun k _ hk => ?_
  rw [List.getElem_map, List.getElem_range]
  exact List.getD_eq_getElem r 0 hk

/-- Settles O5, by the image of a record and its length, and byte by byte for the image of a decoded list. -/
theorem recordImageRoundTrip : Obligations.RecordImageRoundTrip := by
  refine fun p => ⟨fun c hc => ⟨decodeRecord_encodeRecord p c hc, ?_, rfl⟩, fun r => encodeRecord_decodeRecord⟩
  rw [encodeRecord_length, hc]

end Machine

end Sys2Proof
end

section
/-! PROOFS. The words of an instruction, delivered to an idle block, run exactly that instruction (O9): what its opcode word
decodes to, what the input assembler collects, and the run over the payload words. -/

namespace Sys2Proof

/-! ### The fields of an opcode word, format by format (R142) -/

theorem fields_reserved (op : BitVec 5) (low : BitVec 27) : fieldOp (op ++ low) = op ∧ fieldLow (op ++ low) = low :=
  ⟨BitVec.extractLsb'_append_eq_left, BitVec.extractLsb'_append_eq_right⟩

theorem fields_formatT (op : BitVec 5) (r : Bool) (t : U16) :
    fieldOp (op ++ 0#10 ++ BitVec.ofBool r ++ t) = op ∧
    BitVec.extractLsb' 17 10 (op ++ 0#10 ++ BitVec.ofBool r ++ t) = 0 ∧
    fieldR (op ++ 0#10 ++ BitVec.ofBool r ++ t) = r ∧ fieldT (op ++ 0#10 ++ BitVec.ofBool r ++ t) = t := by
  refine ⟨(BitVec.extractLsb'_append_eq_of_le (by decide)).trans ?_,
    (BitVec.extractLsb'_append_eq_of_le (by decide)).trans ?_, BitVec.getLsbD_append.trans ?_,
    BitVec.extractLsb'_append_eq_right⟩
  · exact (BitVec.extractLsb'_append_eq_of_le (by decide)).trans BitVec.extractLsb'_append_eq_left
  · exact (BitVec.extractLsb'_append_eq_of_le (by decide)).trans BitVec.extractLsb'_append_eq_right
  · exact BitVec.getLsbD_append.trans (by cases r <;> rfl)

theorem fields_formatB (op : BitVec 5) (d : Byte) (t : U16) :
    fieldOp (op ++ 0#3 ++ d ++ t) = op ∧ BitVec.extractLsb' 24 3 (op ++ 0#3 ++ d ++ t) = 0 ∧
    fieldD (op ++ 0#3 ++ d ++ t) = d ∧ fieldT (op ++ 0#3 ++ d ++ t) = t := by
  refine ⟨(BitVec.extractLsb'_append_eq_of_le (by decide)).trans ?_,
    (BitVec.extractLsb'_append_eq_of_le (by decide)).trans ?_, (BitVec.extractLsb'_append_eq_of_le (by decide)).trans ?_,
    BitVec.extractLsb'_append_eq_right⟩
  · exact (BitVec.extractLsb'_append_eq_of_le (by decide)).trans BitVec.extractLsb'_append_eq_left
  · exact (BitVec.extractLsb'_append_eq_of_le (by decide)).trans BitVec.extractLsb'_append_eq_right
  · exact BitVec.extractLsb'_append_eq_right

theorem fields_formatI (op : BitVec 5) (i : Byte) :
    fieldOp (op ++ 0#19 ++ i) = op ∧ BitVec.extractLsb' 8 19 (op ++ 0#19 ++ i) = 0 ∧ fieldI (op ++ 0#19 ++ i) = i :=
  ⟨(BitVec.extractLsb'_append_eq_of_le (by decide)).trans BitVec.extractLsb'_append_eq_left,
    (BitVec.extractLsb'_append_eq_of_le (by decide)).trans BitVec.extractLsb'_append_eq_right,
    BitVec.extractLsb'_append_eq_right⟩

theorem fields_formatK (op : BitVec 5) (k : BitVec 2) :
    fieldOp (op ++ 0#25 ++ k) = op ∧ BitVec.extractLsb' 2 25 (op ++ 0#25 ++ k) = 0 ∧ fieldK (op ++ 0#25 ++ k) = k :=
  ⟨(BitVec.extractLsb'_append_eq_of_le (by decide)).trans BitVec.extractLsb'_append_eq_left,
    (BitVec.extractLsb'_append_eq_of_le (by decide)).trans BitVec.extractLsb'_append_eq_right,
    BitVec.extractLsb'_append_eq_right⟩

/-! ### What an opcode word decodes to -/

theorem decodeOp_cfgWrite (payload : List Byte) : decodeOp 0x88000000 payload = .ok (.cfgWrite payload) := by
  have hop : fieldOp 0x88000000 = 0x11#5 := rfl
  have hzero : BitVec.extractLsb' 0 27 (0x88000000 : Word) = 0 := rfl
  simp only [decodeOp, hop, formatN, hzero, if_true]

theorem decodeOp_cfgLoad_some (payload : List Byte) : decodeOp 0xA0000001 payload = .ok (.cfgLoad (some payload)) := by
  have hop : fieldOp 0xA0000001 = 0x14#5 := rfl
  have hzero : BitVec.extractLsb' 1 26 (0xA0000001 : Word) = 0 := rfl
  have hp : fieldP 0xA0000001 = true := rfl
  simp only [decodeOp, hop, formatP, hzero, hp, if_true]

theorem opcodeWord_cfgLoad_some (payload : List Byte) : (Instr.cfgLoad (some payload)).opcodeWord = 0xA0000001 := by
  rw [Instr.opcodeWord, Option.isSome_some]
  rfl

/-- An instruction is what its own opcode word and payload spell (R142 to R144). -/
theorem decodeOp_opcodeWord (i : Instr) : decodeOp i.opcodeWord i.payload = .ok i := by
  cases i with
  | edge r t =>
    obtain ⟨hop, hzero, hr, ht⟩ := fields_formatT 0x01#5 r t
    simp only [decodeOp, Instr.opcodeWord, hop, formatT, hzero, hr, ht, if_true]
  | uartByte d t =>
    obtain ⟨hop, hzero, hd, ht⟩ := fields_formatB 0x02#5 d t
    simp only [decodeOp, Instr.opcodeWord, hop, formatB, hzero, hd, ht, if_true]
  | getInput i =>
    obtain ⟨hop, hzero, hi⟩ := fields_formatI 0x0B#5 i
    simp only [decodeOp, Instr.opcodeWord, hop, formatI, hzero, hi, if_true]
  | getOutput i =>
    obtain ⟨hop, hzero, hi⟩ := fields_formatI 0x0C#5 i
    simp only [decodeOp, Instr.opcodeWord, hop, formatI, hzero, hi, if_true]
  | getDecoderStatus k =>
    obtain ⟨hop, hzero, hk⟩ := fields_formatK 0x0D#5 k
    simp only [decodeOp, Instr.opcodeWord, hop, formatK, hzero, hk, if_true]
  | clearNewData k =>
    obtain ⟨hop, hzero, hk⟩ := fields_formatK 0x0E#5 k
    simp only [decodeOp, Instr.opcodeWord, hop, formatK, hzero, hk, if_true]
  | alarmPpm | alarmSrxl | tick | update | getSource | getCount | cfgRead | cfgDefault | cfgSave | reset => rfl
  | cfgWrite payload => exact decodeOp_cfgWrite payload
  | cfgLoad payload =>
    cases payload with
    | none => rfl
    | some bytes =>
      rw [opcodeWord_cfgLoad_some]
      exact decodeOp_cfgLoad_some bytes
  | reservedOp00 low | reservedOp06 low | reservedOp07 low | reservedOp0F low | reservedOp15 low | reservedOp16 low
  | reservedOp17 low | reservedOp18 low | reservedOp19 low | reservedOp1A low | reservedOp1B low | reservedOp1C low
  | reservedOp1D low | reservedOp1E low =>
    simp only [decodeOp, Instr.opcodeWord, fields_reserved]

/-- The two words that payload words follow spell the two forms that take a payload (R150). -/
theorem takesPayload_of_opcodeWord {i : Instr} (h : i.opcodeWord = 0x88000000 ∨ i.opcodeWord = 0xA0000001) :
    i.takesPayload = true := by
  have decoded := decodeOp_opcodeWord i
  rcases h with h | h <;> rw [h] at decoded
  · rw [← Except.ok.inj ((decodeOp_cfgWrite _).symm.trans decoded)]
    rfl
  · rw [← Except.ok.inj ((decodeOp_cfgLoad_some _).symm.trans decoded)]
    rfl

/-- No payload word follows the opcode word of a one-word instruction (R150). -/
theorem payloadCount_opcodeWord_of_one_word (W : Nat) {i : Instr} (h : i.takesPayload = false) :
    payloadCount W i.opcodeWord = 0 :=
  if_neg fun hw => absurd (takesPayload_of_opcodeWord hw) (by rw [h]; decide)

/-- `W` payload words follow the opcode word of CFG_WRITE and of CFG_LOAD with `p = 1` (R150). -/
theorem payloadCount_opcodeWord_of_takesPayload (W : Nat) {i : Instr} (h : i.takesPayload = true) :
    payloadCount W i.opcodeWord = W := by
  cases i with
  | cfgWrite payload => rfl
  | cfgLoad payload =>
    cases payload with
    | none => exact absurd h (by decide)
    | some bytes => exact if_pos (.inr (opcodeWord_cfgLoad_some bytes))
  | _ => exact absurd h Bool.false_ne_true

/-- The 14 bytes in front of the mapping fill some payload words already (R104, R105). -/
theorem Params.payloadWords_pos (p : Params) : 0 < p.payloadWords := by
  unfold Params.payloadWords Params.configSize
  omega

namespace Machine

/-! ### The input assembler on the payload words -/

/-- The input assembler behind the opcode word `op` and the payload bytes `done`, with `n` words still to come: the rest of
the buffer is 0 (R80, R150). -/
def Inp.awaiting (op : Word) (done : List Byte) (n : Nat) : Inp :=
  ⟨BitVec.ofNat 8 n, op, done ++ List.replicate (4 * n) 0⟩

/-- A payload word goes right behind the bytes that are there. -/
theorem Inp.append_awaiting {p : Params} (op w : Word) {done : List Byte} {n : Nat}
    (size : done.length + 4 * (n + 1) = 4 * p.payloadWords) (hW : p.payloadWords < 2 ^ 8) :
    (Inp.awaiting op done (n + 1)).append p w = done ++ bytesOfWord w ++ List.replicate (4 * n) 0 := by
  have need : (Inp.awaiting op done (n + 1)).need.toNat = n + 1 := Nat.mod_eq_of_lt (by omega)
  have buf : (Inp.awaiting op done (n + 1)).buf = done ++ List.replicate 4 0 ++ List.replicate (4 * n) 0 := by
    rw [List.append_assoc, List.replicate_append_replicate, Nat.add_comm 4]
    rfl
  rw [Inp.append, need, buf, show 4 * (p.payloadWords - (n + 1)) = done.length by omega]
  exact overwrite_behind done _ _ _ rfl

/-- A payload word that is not the last is collected. -/
theorem arrive_awaiting_more {p : Params} (op w : Word) {done : List Byte} {n : Nat}
    (size : done.length + 4 * (n + 2) = 4 * p.payloadWords) (hW : p.payloadWords < 2 ^ 8) :
    arrive p (Inp.awaiting op done (n + 2)) w = .collecting (Inp.awaiting op (done ++ bytesOfWord w) (n + 1)) := by
  have need : (Inp.awaiting op done (n + 2)).need.toNat = n + 2 := Nat.mod_eq_of_lt (by omega)
  have next : (Inp.awaiting op done (n + 2)).need - 1 = BitVec.ofNat 8 (n + 1) := by
    change BitVec.ofNat 8 (n + 2) - 1 = BitVec.ofNat 8 (n + 1)
    bv_omega
  unfold arrive
  rw [if_pos (by bv_omega), if_neg (by bv_omega), next, Inp.append_awaiting op w size hW]
  rfl

/-- The last payload word completes the instruction. -/
theorem arrive_awaiting_last {p : Params} (op w : Word) {done : List Byte}
    (size : done.length + 4 = 4 * p.payloadWords) (hW : p.payloadWords < 2 ^ 8) :
    arrive p (Inp.awaiting op done 1) w =
      .complete op (done ++ bytesOfWord w) ⟨0, op, List.replicate (4 * p.payloadWords) 0⟩ := by
  have buf : (Inp.awaiting op done 1).append p w = done ++ bytesOfWord w ++ [] :=
    Inp.append_awaiting op w (n := 0) size hW
  rw [List.append_nil] at buf
  rw [← buf]
  rfl

/-! ### Runs over waiting words -/

theorem run_succ_of_step {M : Host.Core} {s t : M.State} (h : M.step s = .next t) (k : Nat) :
    M.run (k + 1) s = M.run k t := by
  rw [Host.Core.run, h]

theorem run_one {M : Host.Core} (s : M.State) : M.run 1 s = M.step s := by
  rw [Host.Core.run]
  cases M.step s <;> rfl

/-- A word that completes no instruction only moves the input assembler. -/
theorem step_collecting {s : State} {w : Word} {rest : List Word} {u : Inp} (hp : s.params.Admitted)
    (hi : s.input = w :: rest) (ha : arrive s.params s.inp w = .collecting u) :
    step s = .next ((s.withInput rest).withInp u) := by
  rw [step_word s w rest hp hi, takeWord, State.withInput_params, State.withInput_inp, ha]

/-- A word that completes an instruction executes it. -/
theorem step_complete {s : State} {w op : Word} {rest : List Word} {payload : List Byte} {u : Inp}
    (hp : s.params.Admitted) (hi : s.input = w :: rest) (ha : arrive s.params s.inp w = .complete op payload u) :
    step s = execute op payload ((s.withInput rest).withInp u) := by
  rw [step_word s w rest hp hi, takeWord, State.withInput_params, State.withInput_inp, ha]

/-- The payload words, one step each, are collected behind `done`, and the last one executes the instruction. -/
theorem run_payload {s : State} (hp : s.params.Admitted) (op : Word) (rest : List Word) :
    ∀ (w : Word) (ws : List Word) (done : List Byte), done.length + 4 * (ws.length + 1) = 4 * s.params.payloadWords →
      Host.Core.run core (ws.length + 1)
          ((s.withInput (w :: ws ++ rest)).withInp (.awaiting op done (ws.length + 1))) =
        execute op (done ++ bytesOfWords (w :: ws))
          ((s.withInput rest).withInp ⟨0, op, List.replicate (4 * s.params.payloadWords) 0⟩)
  | w, [], done, size => by
    have step_last := step_complete (s := (s.withInput (w :: rest)).withInp (.awaiting op done 1)) hp rfl
      (arrive_awaiting_last op w size hp.payloadWords_lt)
    rw [bytesOfWords, bytesOfWords, List.append_nil]
    exact (run_one (M := core) _).trans step_last
  | w, w' :: ws, done, size => by
    have step_more := step_collecting
      (s := (s.withInput (w :: w' :: ws ++ rest)).withInp (.awaiting op done (ws.length + 2))) hp rfl
      (arrive_awaiting_more op w size hp.payloadWords_lt)
    have collected := run_payload hp op rest w' ws (done ++ bytesOfWord w)
      (by rw [List.length_append, bytesOfWord_length]; rw [List.length_cons] at size; omega)
    rw [List.append_assoc] at collected
    exact (run_succ_of_step (M := core) step_more _).trans collected

/-- The opcode word and the payload words of CFG_WRITE or CFG_LOAD, delivered to an idle block (R150). -/
theorem run_opcode_and_payload {s : State} (hp : s.params.Admitted) (idle : s.Idle) {op : Word} {ws rest : List Word}
    (count : payloadCount s.params.payloadWords op = s.params.payloadWords) (hlen : ws.length = s.params.payloadWords)
    (hi : s.input = op :: (ws ++ rest)) :
    Host.Core.run core (ws.length + 1) s =
      execute op (bytesOfWords ws)
        ((s.withInput rest).withInp ⟨0, op, List.replicate (4 * s.params.payloadWords) 0⟩) := by
  obtain ⟨need, buf⟩ := idle
  have pos := s.params.payloadWords_pos
  have opcode : arrive s.params s.inp op = .collecting (.awaiting op [] ws.length) := by
    unfold arrive
    rw [if_neg (not_not_intro need), if_pos (by rw [count]; exact pos.ne'), count, buf, ← hlen]
    rfl
  refine (run_succ_of_step (M := core) (step_collecting hp hi opcode) _).trans ?_
  cases ws with
  | nil => exact absurd hlen pos.ne
  | cons w ws =>
    exact run_payload hp op rest w ws [] (by rw [← hlen, List.length_nil, List.length_cons, Nat.zero_add])

/-- A one-word instruction, delivered to an idle block. -/
theorem run_one_word {s : State} (hp : s.params.Admitted) (need : s.inp.need = 0) {op : Word} {rest : List Word}
    (count : payloadCount s.params.payloadWords op = 0) (hi : s.input = op :: rest) :
    Host.Core.run core 1 s = execute op [] (s.withInput rest) := by
  have whole : arrive s.params s.inp op = .complete op [] s.inp := by
    unfold arrive
    rw [if_neg (not_not_intro need), if_neg (not_not_intro count)]
  exact (run_one (M := core) s).trans (step_complete hp hi whole)

/-- Executing what an instruction spells runs its meaning (R449). -/
theorem execute_opcodeWord (i : Instr) (s : State) : execute i.opcodeWord i.payload s = exec i s := by
  rw [execute, decodeOp_opcodeWord]

/-- Settles O9: an instruction is one word, or an opcode word and `W` payload words that are collected one by one. -/
theorem deliveredInstructionRunsWhole : Obligations.DeliveredInstructionRunsWhole := by
  intro s i rest hp ⟨need, buf⟩ wf hi
  cases hpayload : i.takesPayload with
  | false =>
    have nil : i.payload = [] := List.eq_nil_of_length_eq_zero (by rw [wf, hpayload]; rfl)
    have run := run_one_word hp need (payloadCount_opcodeWord_of_one_word _ hpayload)
      (rest := rest) (by rw [hi, encode, nil]; rfl)
    rw [← nil, execute_opcodeWord] at run
    rw [encode, nil]
    exact run
  | true =>
    have size : i.payload.length = 4 * s.params.payloadWords := by rw [wf, hpayload]; rfl
    have words : (wordsOfBytes i.payload).length = s.params.payloadWords := by
      rw [wordsOfBytes_length, size]
      omega
    have run := run_opcode_and_payload hp ⟨need, buf⟩ (payloadCount_opcodeWord_of_takesPayload _ hpayload) words
      (rest := rest) hi
    rw [bytesOfWords_wordsOfBytes _ _ size, execute_opcodeWord] at run
    rw [← buf, ← need] at run
    exact run

end Machine

end Sys2Proof
end

section
/-! PROOFS. The six reads (R112): each answers words it computes from everything but the response port, and appends them to
that port (O45). -/

namespace Sys2Proof.Machine

/-- The state with `words` behind the response port. -/
def State.withResponses (s : State) (words : List Word) : State := { s with responses := s.responses ++ words }

/-- `i` only appends the words that `answer` gives, or faults as it does, and `answer` does not read the response port. -/
structure AnswersOnly (i : Instr) (answer : State → Except Fault (List Word)) : Prop where
  exec_eq     : ∀ s, exec i s = outcomeOf ((answer s).map s.withResponses)
  reads_units : ∀ s words, answer (s.withResponses words) = answer s

/-! ### What each read answers -/

theorem getSource_answersOnly :
    AnswersOnly .getSource fun s => .ok [responseWord .ok (s.agg.source.code.setWidth 16)] :=
  ⟨fun _ => rfl, fun _ _ => rfl⟩

theorem getCount_answersOnly : AnswersOnly .getCount fun s => .ok [responseWord .ok (BitVec.ofNat 16 (aggCount s))] :=
  ⟨fun _ => rfl, fun _ _ => rfl⟩

theorem getInput_answersOnly (i : Byte) :
    AnswersOnly (.getInput i) fun s =>
      if s.agg.source = .none ∨ aggCount s ≤ indexOperand i then .ok [responseWord .range 0]
      else (aggInputUs s (indexOperand i)).map fun us => [responseWord .ok (BitVec.ofNat 16 (min us 0xFFFF))] where
  exec_eq s := by
    change execGetInput i s = _
    unfold execGetInput
    split
    · rfl
    · cases aggInputUs s (indexOperand i) <;> rfl
  reads_units _ _ := rfl

theorem getOutput_answersOnly (i : Byte) :
    AnswersOnly (.getOutput i) fun s =>
      if s.params.maxOutputChannels ≤ indexOperand i then .ok [responseWord .range 0]
      else (aggOutput s (indexOperand i)).map fun v => [responseWord .ok (v.setWidth 16)] where
  exec_eq s := by
    change execGetOutput i s = _
    unfold execGetOutput
    split
    · rfl
    · cases aggOutput s (indexOperand i) <;> rfl
  reads_units _ _ := rfl

theorem getDecoderStatus_answersOnly (k : BitVec 2) :
    AnswersOnly (.getDecoderStatus k) fun s =>
      .ok ((decoderOperand k).elim [responseWord .range 0] fun d => [responseWord .ok (s.decoderStatus d)]) where
  exec_eq s := by
    change execGetDecoderStatus k s = _
    unfold execGetDecoderStatus
    cases decoderOperand k <;> rfl
  reads_units s words := by
    cases decoderOperand k with
    | none => rfl
    | some d => cases d <;> rfl

theorem cfgRead_answersOnly :
    AnswersOnly .cfgRead fun s => .ok (responseWord .ok 0 :: wordsOfBytes (encodeRecord s.cfg)) where
  exec_eq s := by
    change Host.Outcome.next ((s.respond .ok 0).respondPayload (encodeRecord s.cfg)) = .next (s.withResponses _)
    simp [State.respond, State.respondPayload, State.withResponses]
  reads_units _ _ := rfl

/-! ### Repeating a read -/

/-- An instruction that only answers appends the same words when it runs again. -/
theorem AnswersOnly.repeats {i : Instr} {answer : State → Except Fault (List Word)} (h : AnswersOnly i answer) {s t : State}
    (ht : exec i s = .next t) :
    ∃ words, t = s.withResponses words ∧ exec i t = .next ((s.withResponses words).withResponses words) := by
  rw [h.exec_eq] at ht
  cases ha : answer s with
  | error f =>
    rw [ha] at ht
    cases ht
  | ok words =>
    rw [ha] at ht
    cases ht
    exact ⟨words, rfl, by rw [h.exec_eq, h.reads_units, ha]; rfl⟩

/-- Settles O45, by what each of the six reads answers. -/
theorem readsChangeNoState : Obligations.ReadsChangeNoState := by
  intro i s t read ht
  have answers : ∃ answer, AnswersOnly i answer := by
    obtain rfl | rfl | ⟨x, rfl⟩ | ⟨x, rfl⟩ | ⟨k, rfl⟩ | rfl := read
    · exact ⟨_, getSource_answersOnly⟩
    · exact ⟨_, getCount_answersOnly⟩
    · exact ⟨_, getInput_answersOnly x⟩
    · exact ⟨_, getOutput_answersOnly x⟩
    · exact ⟨_, getDecoderStatus_answersOnly k⟩
    · exact ⟨_, cfgRead_answersOnly⟩
  obtain ⟨_, h⟩ := answers
  exact h.repeats ht

end Sys2Proof.Machine
end

section
/-! PROOFS. Decoding and encoding are inverse to each other (O1, O2), the opcode map decides decoding (O3), and the words the
spec spells out decode as it says (O4). -/

namespace Sys2Proof

/-! ### A word from its opcode and its fields, format by format (R142) -/

theorem op_append_fieldLow {w : Word} {op : BitVec 5} (hop : fieldOp w = op) : op ++ fieldLow w = w := by
  rw [← hop]
  exact BitVec.extractLsb'_append_extractLsb'

/-- The opcode and the bits below it that a format marks 0 are the top bits of the word. -/
theorem op_append_zeros {w : Word} {op : BitVec 5} (hop : fieldOp w = op) {k n : Nat} (hk : 27 = k + n)
    (h : w.extractLsb' k n = 0#n) : op ++ 0#n = w.extractLsb' k (5 + n) := by
  rw [← hop, ← h]
  exact BitVec.extractLsb'_append_extractLsb'_eq_extractLsb' hk

theorem ofBool_getLsbD (w : Word) (k : Nat) : BitVec.ofBool (w.getLsbD k) = w.extractLsb' k 1 := by
  rw [BitVec.getLsbD_eq_extractLsb']
  exact (by decide : ∀ b : BitVec 1, BitVec.ofBool (b == 1#1) = b) _

section

variable {w : Word} {op : BitVec 5} (hop : fieldOp w = op)
include hop

theorem op_append_formatN (h : w.extractLsb' 0 27 = 0) : op ++ 0#27 = w :=
  (op_append_zeros hop rfl h).trans BitVec.extractLsb'_eq_self

theorem op_append_formatT (h : w.extractLsb' 17 10 = 0) :
    op ++ 0#10 ++ BitVec.ofBool (fieldR w) ++ fieldT w = w := by
  have above : op ++ 0#10 ++ BitVec.ofBool (fieldR w) = w.extractLsb' 16 16 := by
    rw [op_append_zeros hop rfl h, fieldR, ofBool_getLsbD]
    exact BitVec.extractLsb'_append_extractLsb'_eq_extractLsb' rfl
  rw [above]
  exact BitVec.extractLsb'_append_extractLsb'

theorem op_append_formatB (h : w.extractLsb' 24 3 = 0) : op ++ 0#3 ++ fieldD w ++ fieldT w = w := by
  have above : op ++ 0#3 ++ fieldD w = w.extractLsb' 16 16 := by
    rw [op_append_zeros hop rfl h]
    exact BitVec.extractLsb'_append_extractLsb'_eq_extractLsb' rfl
  rw [above]
  exact BitVec.extractLsb'_append_extractLsb'

theorem op_append_formatI (h : w.extractLsb' 8 19 = 0) : op ++ 0#19 ++ fieldI w = w := by
  rw [op_append_zeros hop rfl h]
  exact BitVec.extractLsb'_append_extractLsb'

theorem op_append_formatK (h : w.extractLsb' 2 25 = 0) : op ++ 0#25 ++ fieldK w = w := by
  rw [op_append_zeros hop rfl h]
  exact BitVec.extractLsb'_append_extractLsb'

theorem op_append_formatP (h : w.extractLsb' 1 26 = 0) : op ++ 0#26 ++ BitVec.ofBool (fieldP w) = w := by
  rw [op_append_zeros hop rfl h, fieldP, ofBool_getLsbD]
  exact BitVec.extractLsb'_append_extractLsb'

end

/-! ### What a decoded word was -/

/-- A format gives its instruction only if the bits it marks 0 are 0. -/
theorem format_eq_ok {zero : Prop} [Decidable zero] {e : DecodeError} {i j : Instr}
    (h : (if zero then Except.ok i else .error e) = .ok j) : zero ∧ i = j := by
  split at h
  case isTrue hz => exact ⟨hz, Except.ok.inj h⟩
  case isFalse => cases h

/-- A word that decodes is the opcode word of the instruction it spells, and the two forms with a payload carry the bytes
given (R142 to R145). The cases are the opcodes in their order: `h_1` is 0x00, and `h_32` is 0x1F. -/
theorem opcodeWord_of_decodeOp {w : Word} {payload : List Byte} {i : Instr} (h : decodeOp w payload = .ok i) :
    i.opcodeWord = w ∧ (i.takesPayload = true → i.payload = payload) := by
  unfold decodeOp at h
  split at h
  case h_1 hop | h_7 hop | h_8 hop | h_16 hop | h_22 hop | h_23 hop | h_24 hop | h_25 hop | h_26 hop | h_27 hop
    | h_28 hop | h_29 hop | h_30 hop | h_31 hop =>
    cases h
    exact ⟨op_append_fieldLow hop, nofun⟩
  case h_2 hop =>
    obtain ⟨zero, rfl⟩ := format_eq_ok h
    exact ⟨op_append_formatT hop zero, nofun⟩
  case h_3 hop =>
    obtain ⟨zero, rfl⟩ := format_eq_ok h
    exact ⟨op_append_formatB hop zero, nofun⟩
  case h_12 hop | h_13 hop =>
    obtain ⟨zero, rfl⟩ := format_eq_ok h
    exact ⟨op_append_formatI hop zero, nofun⟩
  case h_14 hop | h_15 hop =>
    obtain ⟨zero, rfl⟩ := format_eq_ok h
    exact ⟨op_append_formatK hop zero, nofun⟩
  case h_4 hop | h_5 hop | h_6 hop | h_9 hop | h_10 hop | h_11 hop | h_17 hop | h_19 hop | h_20 hop | h_32 hop =>
    obtain ⟨zero, rfl⟩ := format_eq_ok h
    exact ⟨op_append_formatN hop zero, nofun⟩
  case h_18 hop =>
    obtain ⟨zero, rfl⟩ := format_eq_ok h
    exact ⟨op_append_formatN hop zero, fun _ => rfl⟩
  case h_21 hop =>
    obtain ⟨zero, rfl⟩ := format_eq_ok h
    have word := op_append_formatP hop zero
    cases hp : fieldP w <;> rw [hp] at word
    · exact ⟨word, nofun⟩
    · exact ⟨word, fun _ => rfl⟩
  case h_33 => cases h

/-! ### The words of an instruction -/

/-- What decodes at the head of some words (R150): a word, and as many payload words as follow it. -/
theorem decode_cons_eq_ok_iff {W : Nat} {w : Word} {tail rest : List Word} {i : Instr} :
    decode W (w :: tail) = .ok (i, rest) ↔
      payloadCount W w ≤ tail.length ∧ decodeOp w (bytesOfWords (tail.take (payloadCount W w))) = .ok i ∧
        tail.drop (payloadCount W w) = rest := by
  rw [decode]
  by_cases short : tail.length < payloadCount W w
  · simp [short]
  · cases hd : decodeOp w (bytesOfWords (tail.take (payloadCount W w))) <;> simp [short, Nat.le_of_not_lt short]

/-- An instruction that takes no payload carries none. -/
theorem payload_of_one_word {i : Instr} (h : i.takesPayload = false) : i.payload = [] := by
  cases i with
  | cfgWrite => cases h
  | cfgLoad payload =>
    cases payload with
    | none => rfl
    | some => cases h
  | _ => rfl

/-- The payload words of a well-formed instruction: as many as follow its opcode word, and they carry its payload. -/
theorem payloadWords_of_wellFormed {p : Params} {i : Instr} (wf : i.WellFormed p) :
    (wordsOfBytes i.payload).length = payloadCount p.payloadWords i.opcodeWord ∧
      bytesOfWords (wordsOfBytes i.payload) = i.payload := by
  cases hpayload : i.takesPayload with
  | false =>
    rw [payload_of_one_word hpayload, payloadCount_opcodeWord_of_one_word _ hpayload]
    exact ⟨rfl, rfl⟩
  | true =>
    have size : i.payload.length = 4 * p.payloadWords := by rw [wf, hpayload]; rfl
    rw [payloadCount_opcodeWord_of_takesPayload _ hpayload, wordsOfBytes_length, size]
    exact ⟨by omega, bytesOfWords_wordsOfBytes _ _ size⟩

/-- The payload words that were taken with a decoded word are those of the instruction. -/
theorem wordsOfBytes_payload_of_decodeOp {W : Nat} {w : Word} {tail : List Word} {i : Instr}
    (h : decodeOp w (bytesOfWords (tail.take (payloadCount W w))) = .ok i) :
    wordsOfBytes i.payload = tail.take (payloadCount W w) := by
  obtain ⟨rfl, carries⟩ := opcodeWord_of_decodeOp h
  cases hpayload : i.takesPayload with
  | false =>
    rw [payload_of_one_word hpayload, payloadCount_opcodeWord_of_one_word W hpayload]
    rfl
  | true => rw [carries hpayload, wordsOfBytes_bytesOfWords]

/-- Settles O1, by what the opcode word of an instruction decodes to and the payload words behind it. -/
theorem decodeOfEncodeIsIdentity : Obligations.DecodeOfEncodeIsIdentity := by
  intro p i rest wf
  obtain ⟨count, carried⟩ := payloadWords_of_wellFormed wf
  rw [encode, List.cons_append, decode_cons_eq_ok_iff, ← count, List.take_left, List.drop_left, carried, List.length_append]
  exact ⟨Nat.le_add_right _ _, decodeOp_opcodeWord i, rfl⟩

/-- Settles O2, by the opcode word and the payload words of what was decoded. -/
theorem encodeOfDecodeIsIdentity : Obligations.EncodeOfDecodeIsIdentity := by
  intro W ws rest i h
  cases ws with
  | nil => cases h
  | cons w tail =>
    obtain ⟨_, decoded, rfl⟩ := decode_cons_eq_ok_iff.mp h
    rw [encode, wordsOfBytes_payload_of_decodeOp decoded, (opcodeWord_of_decodeOp decoded).1, List.cons_append,
      List.take_append_drop]

/-! ### The opcode map (R144) -/

/-- Where the mask of a row has only ones, a word that matches has the bits of the pattern. -/
theorem OpRow.Matches.covered {row : OpRow} {w : Word} (h : row.Matches w) {k n : Nat}
    (ones : row.mask.extractLsb' k n = BitVec.allOnes n) : w.extractLsb' k n = row.pattern.extractLsb' k n := by
  rw [← h, BitVec.extractLsb'_and, ones, BitVec.and_allOnes]

/-- A word that matches a row decodes to an instruction with the row's mnemonic: the mask covers the opcode and, in the 18
rows of a defined opcode, which come first, every bit that the format marks 0. -/
theorem decodes_of_matches {row : OpRow} (hrow : row ∈ opcodeTable) {w : Word} (h : row.Matches w) (payload : List Byte) :
    ∃ i, decodeOp w payload = .ok i ∧ i.mnemonic = row.mnemonic := by
  have hop {op : BitVec 5} (ones : row.mask.extractLsb' 27 5 = BitVec.allOnes 5)
      (pattern : row.pattern.extractLsb' 27 5 = op) : fieldOp w = op := (h.covered ones).trans pattern
  simp only [opcodeTable, List.mem_cons, List.not_mem_nil, or_false] at hrow
  rcases hrow with rfl | rfl | rfl | rfl | rfl | rfl | rfl | rfl | rfl | rfl | rfl | rfl | rfl | rfl | rfl | rfl | rfl | rfl
    | rfl | rfl | rfl | rfl | rfl | rfl | rfl | rfl | rfl | rfl | rfl | rfl | rfl | rfl
  iterate 18 exact ⟨_, by rw [decodeOp, hop rfl rfl]; exact if_pos (h.covered rfl), rfl⟩
  iterate 14 exact ⟨_, by rw [decodeOp, hop rfl rfl]; rfl, rfl⟩

/-- A mask with zeros in the place of the low part keeps nothing of it. -/
theorem append_and_zeros {n m : Nat} (high mask : BitVec n) (low : BitVec m) :
    (high ++ low) &&& (mask ++ 0#m) = (high &&& mask) ++ 0#m := by
  rw [BitVec.and_append, BitVec.and_zero]

/-- The opcode word of every instruction matches a row with its mnemonic. -/
theorem exists_row_matches_opcodeWord (i : Instr) :
    ∃ row ∈ opcodeTable, row.Matches i.opcodeWord ∧ row.mnemonic = i.mnemonic := by
  have row (k : Nat) (h : k < opcodeTable.length) (hm : opcodeTable[k].Matches i.opcodeWord)
      (hn : opcodeTable[k].mnemonic = i.mnemonic) :
      ∃ row ∈ opcodeTable, row.Matches i.opcodeWord ∧ row.mnemonic = i.mnemonic := ⟨_, List.getElem_mem h, hm, hn⟩
  cases i with
  | edge r t =>
    have low : (0x01#5 ++ 0#10 ++ BitVec.ofBool r) &&& 0xFFFE#16 = 0x0800#16 := append_and_zeros _ 0x7FFF#15 _
    exact row 0 (by decide) ((append_and_zeros _ 0xFFFE#16 t).trans (congrArg (· ++ 0#16) low)) rfl
  | uartByte d t =>
    have low : (0x02#5 ++ 0#3 ++ d) &&& 0xFF00#16 = 0x1000#16 := append_and_zeros _ 0xFF#8 d
    exact row 1 (by decide) ((append_and_zeros _ 0xFF00#16 t).trans (congrArg (· ++ 0#16) low)) rfl
  | alarmPpm => exact row 2 (by decide) rfl rfl
  | alarmSrxl => exact row 3 (by decide) rfl rfl
  | tick => exact row 4 (by decide) rfl rfl
  | update => exact row 5 (by decide) rfl rfl
  | getSource => exact row 6 (by decide) rfl rfl
  | getCount => exact row 7 (by decide) rfl rfl
  | getInput i => exact row 8 (by decide) (append_and_zeros _ 0xFFFFFF#24 i) rfl
  | getOutput i => exact row 9 (by decide) (append_and_zeros _ 0xFFFFFF#24 i) rfl
  | getDecoderStatus k => exact row 10 (by decide) (append_and_zeros _ 0x3FFFFFFF#30 k) rfl
  | clearNewData k => exact row 11 (by decide) (append_and_zeros _ 0x3FFFFFFF#30 k) rfl
  | cfgRead => exact row 12 (by decide) rfl rfl
  | cfgWrite payload => exact row 13 (by decide) (by rw [Instr.opcodeWord]; rfl) rfl
  | cfgDefault => exact row 14 (by decide) rfl rfl
  | cfgSave => exact row 15 (by decide) rfl rfl
  | cfgLoad payload => exact row 16 (by decide) (append_and_zeros _ 0x7FFFFFFF#31 _) rfl
  | reset => exact row 17 (by decide) rfl rfl
  | reservedOp00 low => exact row 18 (by decide) (append_and_zeros _ 0x1F#5 low) rfl
  | reservedOp06 low => exact row 19 (by decide) (append_and_zeros _ 0x1F#5 low) rfl
  | reservedOp07 low => exact row 20 (by decide) (append_and_zeros _ 0x1F#5 low) rfl
  | reservedOp0F low => exact row 21 (by decide) (append_and_zeros _ 0x1F#5 low) rfl
  | reservedOp15 low => exact row 22 (by decide) (append_and_zeros _ 0x1F#5 low) rfl
  | reservedOp16 low => exact row 23 (by decide) (append_and_zeros _ 0x1F#5 low) rfl
  | reservedOp17 low => exact row 24 (by decide) (append_and_zeros _ 0x1F#5 low) rfl
  | reservedOp18 low => exact row 25 (by decide) (append_and_zeros _ 0x1F#5 low) rfl
  | reservedOp19 low => exact row 26 (by decide) (append_and_zeros _ 0x1F#5 low) rfl
  | reservedOp1A low => exact row 27 (by decide) (append_and_zeros _ 0x1F#5 low) rfl
  | reservedOp1B low => exact row 28 (by decide) (append_and_zeros _ 0x1F#5 low) rfl
  | reservedOp1C low => exact row 29 (by decide) (append_and_zeros _ 0x1F#5 low) rfl
  | reservedOp1D low => exact row 30 (by decide) (append_and_zeros _ 0x1F#5 low) rfl
  | reservedOp1E low => exact row 31 (by decide) (append_and_zeros _ 0x1F#5 low) rfl

/-- No two rows have one mnemonic. -/
theorem opcodeTable_mnemonics_nodup : (opcodeTable.map OpRow.mnemonic).Nodup := by
  unfold opcodeTable
  decide

/-- The only refusal of a word is a reserved bit (R145). -/
theorem decodeOp_eq_error {w : Word} {payload : List Byte} {e : DecodeError} (h : decodeOp w payload = .error e) :
    e = .reservedBitSet := by
  have opcode : e ≠ .noOpcode := fun he => decodeOp_ne_noOpcode w payload (he ▸ h)
  unfold decodeOp formatN formatT formatB formatI formatK formatP at h
  split at h
  case h_33 => exact absurd (Except.error.inj h).symm opcode
  case h_1 | h_7 | h_8 | h_16 | h_22 | h_23 | h_24 | h_25 | h_26 | h_27 | h_28 | h_29 | h_30 | h_31 => cases h
  all_goals
    split at h
    · cases h
    · exact (Except.error.inj h).symm

/-- A word matches a row exactly when it spells the row's mnemonic (R144). -/
theorem matches_iff_decodes (w : Word) (payload : List Byte) {row : OpRow} (hrow : row ∈ opcodeTable) :
    row.Matches w ↔ ∃ i, decodeOp w payload = .ok i ∧ i.mnemonic = row.mnemonic := by
  refine ⟨fun h => decodes_of_matches hrow h payload, fun ⟨i, decoded, hname⟩ => ?_⟩
  obtain ⟨row', hrow', hmatch, hname'⟩ := exists_row_matches_opcodeWord i
  have same : row' = row := List.inj_on_of_nodup_map opcodeTable_mnemonics_nodup hrow' hrow (hname'.trans hname)
  rw [← same, ← (opcodeWord_of_decodeOp decoded).1]
  exact hmatch

/-- Settles O3, by the rows that opcode words match and the mnemonics, of which no two rows have the same. -/
theorem opcodeMapDecidesDecoding : Obligations.OpcodeMapDecidesDecoding := by
  refine ⟨fun w payload row hrow => matches_iff_decodes w payload hrow, ?_, fun w payload h => ?_⟩
  · refine (List.pairwise_map.mp opcodeTable_mnemonics_nodup).imp_of_mem fun ha hb hne w ⟨hwa, hwb⟩ => hne ?_
    obtain ⟨i, decodedA, hname⟩ := decodes_of_matches ha hwa []
    obtain ⟨j, decodedB, hname'⟩ := decodes_of_matches hb hwb []
    rw [← hname, ← hname', Except.ok.inj (decodedA.symm.trans decodedB)]
  · cases hd : decodeOp w payload with
    | error e => rw [decodeOp_eq_error hd]
    | ok i =>
      obtain ⟨row, hrow, hmatch, -⟩ := exists_row_matches_opcodeWord i
      exact absurd ((opcodeWord_of_decodeOp hd).1 ▸ hmatch) (h row hrow)

/-- Settles O4, by evaluation. -/
theorem knownWordsDecode : Obligations.KnownWordsDecode := by
  unfold Obligations.KnownWordsDecode
  decide

end Sys2Proof
end

section
/-! PROOFS. One step of the block, by what the arriving word comes to (R150): a step that completes an instruction runs it (O7),
and every other step only moves the input assembler or waits (O8). -/

namespace Sys2Proof.Machine

/-! ### The four arrivals (R150) -/

section

variable {p : Params} {u : Inp} {w : Word}

theorem arrive_one_word (need : u.need = 0) (count : payloadCount p.payloadWords w = 0) :
    arrive p u w = .complete w [] u := by
  unfold arrive
  rw [if_neg (not_not_intro need), if_neg (not_not_intro count)]

theorem arrive_opcode_word (need : u.need = 0) (count : payloadCount p.payloadWords w ≠ 0) :
    arrive p u w = .collecting { u with op := w, need := BitVec.ofNat 8 (payloadCount p.payloadWords w) } := by
  unfold arrive
  rw [if_neg (not_not_intro need), if_pos count]

theorem arrive_last_word (need : u.need = 1) : arrive p u w = .complete u.op (u.append p w) (u.cleared p) := by
  unfold arrive
  rw [if_pos (by rw [need]; decide), if_pos need]

theorem arrive_payload_word (need : 2 ≤ u.need.toNat) :
    arrive p u w = .collecting { u with need := u.need - 1, buf := u.append p w } := by
  unfold arrive
  rw [if_pos (by bv_omega), if_neg (by bv_omega)]

end

theorem execute_of_decodeOp {w : Word} {payload : List Byte} {i : Instr} (h : decodeOp w payload = .ok i) (s : State) :
    execute w payload s = exec i s := by
  rw [execute, h]

/-- Settles O7, by the two arrivals that complete an instruction. -/
theorem stepRunsDecodedInstruction : Obligations.StepRunsDecodedInstruction := by
  refine fun s w rest i hp hi => ⟨fun need count decoded => ?_, fun need decoded => ?_⟩
  · rw [step_complete hp hi (arrive_one_word need count)]
    exact execute_of_decodeOp decoded _
  · rw [step_complete hp hi (arrive_last_word need)]
    exact execute_of_decodeOp decoded _

/-- Settles O8, by the two arrivals that complete no instruction and the empty port. -/
theorem stepBetweenInstructions : Obligations.StepBetweenInstructions := by
  refine fun s hp => ⟨fun w rest hi need hw => ?_, fun w rest hi need => ?_, fun hi need => ?_, fun hi need => ?_⟩
  · have count : payloadCount s.params.payloadWords w = s.params.payloadWords := if_pos hw
    have opcode := arrive_opcode_word (w := w) need (count.trans_ne s.params.payloadWords_pos.ne')
    rw [count] at opcode
    exact step_collecting hp hi opcode
  · exact step_collecting hp hi (arrive_payload_word need)
  · rw [step_empty s hp hi, awaitWord, if_pos need]
  · rw [step_empty s hp hi, awaitWord, if_neg need]

end Sys2Proof.Machine
end

section
/-! PROOFS. How many words each instruction puts on the response port (R147): one rule per shape of a meaning, then one line per
instruction (O54). -/

namespace Sys2Proof.Machine

/-- `t` has the responses of `s`, and `n` words behind them. -/
def State.Answers (s : State) (n : Nat) (t : State) : Prop :=
  ∃ words, t.responses = s.responses ++ words ∧ words.length = n

/-- If `o` is a next state, that state has `n` more words on the response port than `s`. -/
def NextAnswers (s : State) (n : Nat) (o : Host.Outcome State Fault Refusal) : Prop := ∀ t, o = .next t → s.Answers n t

theorem nextAnswers_next {s t : State} {n : Nat} (h : s.Answers n t) : NextAnswers s n (.next t) := by
  rintro _ ⟨⟩
  exact h

/-- A meaning that computes a value, faults if there is none, and answers with it. -/
theorem nextAnswers_outcomeOf_map {α : Type} {s : State} {n : Nat} {f : α → State} (h : ∀ a, s.Answers n (f a))
    (r : Except Fault α) : NextAnswers s n (outcomeOf (r.map f)) := by
  cases r with
  | error e => exact fun _ hn => nomatch hn
  | ok a => exact nextAnswers_next (h a)

/-! ### What a state operation adds to the responses -/

section

variable {s t : State}

/-- An operation that leaves the response port as it is. -/
theorem answers_none (h : t.responses = s.responses) : s.Answers 0 t := ⟨[], by rw [h, List.append_nil], rfl⟩

/-- One response word, with units written, notifications emitted or a record stored before or behind it. -/
theorem answers_one {st : Status} {v : U16} (h : t.responses = s.responses ++ [responseWord st v]) : s.Answers 1 t :=
  ⟨_, h, rfl⟩

end

theorem clearNewDataOf_responses (s : State) (d : DecoderId) : (s.clearNewDataOf d).responses = s.responses := by
  cases d <;> rfl

/-- The payload words of a record with all its mapping entries are `W` (R105). -/
theorem wordsOfBytes_encodeRecord_length {p : Params} {c : CfgRecord} (h : c.mapping.length = p.maxOutputChannels) :
    (wordsOfBytes (encodeRecord c)).length = p.payloadWords := by
  rw [wordsOfBytes_length, encodeRecord_length, h, Params.payloadWords, Params.configSize]

/-! ### Meanings -/

theorem execGetInput_answers (i : Byte) (s : State) : NextAnswers s 1 (execGetInput i s) := by
  unfold execGetInput
  split
  · exact nextAnswers_next (answers_one rfl)
  · exact nextAnswers_outcomeOf_map (fun _ => answers_one rfl) _

theorem execGetOutput_answers (i : Byte) (s : State) : NextAnswers s 1 (execGetOutput i s) := by
  unfold execGetOutput
  split
  · exact nextAnswers_next (answers_one rfl)
  · exact nextAnswers_outcomeOf_map (fun _ => answers_one rfl) _

theorem execGetDecoderStatus_answers (k : BitVec 2) (s : State) : NextAnswers s 1 (execGetDecoderStatus k s) := by
  unfold execGetDecoderStatus
  split <;> exact nextAnswers_next (answers_one rfl)

theorem execClearNewData_answers (k : BitVec 2) (s : State) : NextAnswers s 1 (execClearNewData k s) := by
  unfold execClearNewData
  split
  · exact nextAnswers_next (answers_one rfl)
  · exact nextAnswers_next (answers_one (by rw [State.respond_responses, clearNewDataOf_responses]))

theorem execCfgWrite_answers (payload : List Byte) (s : State) : NextAnswers s 1 (execCfgWrite payload s) := by
  unfold execCfgWrite
  split <;> exact nextAnswers_next (answers_one rfl)

theorem execCfgLoad_answers (payload : Option (List Byte)) (s : State) : NextAnswers s 1 (execCfgLoad payload s) := by
  cases payload with
  | none => exact nextAnswers_next (answers_one rfl)
  | some bytes =>
    unfold execCfgLoad
    dsimp only
    split <;> exact nextAnswers_next (answers_one rfl)

theorem execCfgRead_answers {s : State} (h : s.cfg.mapping.length = s.params.maxOutputChannels) :
    NextAnswers s (1 + s.params.payloadWords) (execCfgRead s) := by
  refine nextAnswers_next ⟨responseWord .ok 0 :: wordsOfBytes (encodeRecord s.cfg), ?_, ?_⟩
  · rw [State.respondPayload_responses, State.respond_responses, List.append_assoc, List.singleton_append]
  · rw [List.length_cons, wordsOfBytes_encodeRecord_length h, Nat.add_comm]

/-- An event answers no word, CFG_READ the OK word and `W` more, and every other instruction one word (R147). -/
theorem exec_answers {s : State} (h : s.cfg.mapping.length = s.params.maxOutputChannels) (i : Instr) :
    NextAnswers s (Claims.responseCount s.params i) (exec i s) := by
  cases i with
  | edge | alarmPpm | alarmSrxl | tick => exact nextAnswers_next (answers_none rfl)
  | uartByte d t => exact nextAnswers_outcomeOf_map (f := s.takeSrxl) (fun _ => answers_none rfl) _
  | getInput i => exact execGetInput_answers i s
  | getOutput i => exact execGetOutput_answers i s
  | getDecoderStatus k => exact execGetDecoderStatus_answers k s
  | clearNewData k => exact execClearNewData_answers k s
  | cfgRead => exact execCfgRead_answers h
  | cfgWrite payload => exact execCfgWrite_answers payload s
  | cfgLoad payload => exact execCfgLoad_answers payload s
  | update | getSource | getCount | cfgDefault | cfgSave | reset | reservedOp00 | reservedOp06 | reservedOp07
  | reservedOp0F | reservedOp15 | reservedOp16 | reservedOp17 | reservedOp18 | reservedOp19 | reservedOp1A
  | reservedOp1B | reservedOp1C | reservedOp1D | reservedOp1E => exact nextAnswers_next (answers_one rfl)

/-- Settles O54, by the response count of each instruction. -/
theorem oneResponsePerCommand : Obligations.OneResponsePerCommand :=
  fun i _ t h => exec_answers h i t

end Sys2Proof.Machine
end

section
/-! PROOFS. What the three whole-frame proofs share: runs one behind the other (R110, R120), what an edge leaves alone, entries
stored one behind the other (R101), and the gap between two times (R16). -/

namespace Sys2Proof

theorem Params.Admitted.tickBits_le {p : Params} (h : p.Admitted) : p.tickBits ≤ 16 := by
  obtain ⟨-, hbits, -⟩ := h
  exact hbits

/-- The bytes of a frame fit a bank (R101). -/
theorem Params.Admitted.pcmDataBytes_le {p : Params} (h : p.Admitted) : p.pcmDataBytes ≤ p.pcmBankSize := by
  obtain ⟨-, -, -, -, -, -, hbytes, -⟩ := h
  exact hbytes

/-- The longest SRXL frame fits a bank (R101). -/
theorem Params.Admitted.srxlBankSize_ge {p : Params} (h : p.Admitted) : 35 ≤ p.srxlBankSize := by
  obtain ⟨-, -, -, -, -, -, -, -, hsize, -⟩ := h
  exact hsize

namespace Machine

/-! ### Runs of instructions -/

/-- A run behind a run that answered a next state. -/
theorem execAll_append {is js : List Instr} {s t : State} (h : execAll is s = .next t) :
    execAll (is ++ js) s = execAll js t := by
  induction is generalizing s with
  | nil =>
    cases h
    rfl
  | cons i is ih =>
    rw [List.cons_append, execAll]
    rw [execAll] at h
    cases hi : exec i s <;> rw [hi] at h
    case next => exact ih h
    all_goals cases h

theorem execAll_cons {i : Instr} {is : List Instr} {s t : State} (h : exec i s = .next t) :
    execAll (i :: is) s = execAll is t := by
  rw [execAll, h]

/-- `t` has the parameters, the configuration and the SRXL unit of `s`: what no edge writes (R30). -/
structure State.KeepsRest (s t : State) : Prop where
  params : t.params = s.params
  cfg    : t.cfg = s.cfg
  srxl   : t.srxl = s.srxl

theorem State.KeepsRest.refl (s : State) : s.KeepsRest s := ⟨rfl, rfl, rfl⟩

theorem State.KeepsRest.trans {s t u : State} (h : s.KeepsRest t) (h' : t.KeepsRest u) : s.KeepsRest u :=
  ⟨h'.params.trans h.params, h'.cfg.trans h.cfg, h'.srxl.trans h.srxl⟩

/-- An edge never stops the block, and moves the two edge decoders by their procedures (R200). -/
theorem exec_edge (r : Bool) (x : U16) (s : State) :
    ∃ t, exec (.edge r x) s = .next t ∧ s.KeepsRest t ∧ t.ppm = (ppmEdge s.params s.cfg x r s.ppm).1 ∧
      t.pcm = (pcmEdge s.params x r s.pcm).1 :=
  ⟨_, rfl, ⟨rfl, rfl, rfl⟩, rfl, rfl⟩

/-! ### Entries stored one behind the other -/

section

variable {α : Type} {bk : Banks α} {b : Bool} {xs : List α}

/-- A write right behind the entries that are there puts its value behind them. -/
theorem Banks.write_behind_prefix (h : xs <+: bk.side b) (room : xs.length < (bk.side b).length) (v : α) :
    xs ++ [v] <+: (bk.write b xs.length v).side b := by
  obtain ⟨ys, hys⟩ := h
  rw [Banks.side_write_same, ← hys]
  cases ys with
  | nil => simp [← hys] at room
  | cons y ys => exact ⟨ys, by simp⟩

/-- The entries at the front of a side are read by their index. -/
theorem Banks.read_of_prefix (h : xs <+: bk.side b) {k : Nat} (hk : k < xs.length) : bk.read b k = some xs[k] := by
  obtain ⟨ys, hys⟩ := h
  rw [Banks.read, ← hys, List.getElem?_append_left hk, List.getElem?_eq_getElem hk]

end

/-! ### Gaps (R16) -/

theorem truncTicks_truncTicks (p : Params) (v : U16) : truncTicks p (truncTicks p v) = truncTicks p v := by
  rw [truncTicks_eq_iff, truncTicks_toNat, Nat.mod_mod]

/-- A difference of 16-bit values, modulo `2 ^ TICK_BITS`, sees what is subtracted modulo `2 ^ TICK_BITS` only. -/
theorem ticksSub_congr {p : Params} (hbits : p.tickBits ≤ 16) {a b b' : U16} (h : truncTicks p b = truncTicks p b') :
    ticksSub p a b = ticksSub p a b' := by
  have dvd : 2 ^ p.tickBits ∣ 2 ^ 16 := pow_dvd_pow 2 hbits
  have sub (c : U16) : (a - c).toNat + c.toNat ≡ a.toNat [MOD 2 ^ p.tickBits] := by
    have e := BitVec.toNat_add (a - c) c
    rw [BitVec.sub_add_cancel] at e
    rw [e]
    exact ((Nat.mod_modEq _ _).of_dvd dvd).symm
  rw [truncTicks_eq_iff] at h
  rw [ticksSub, ticksSub, truncTicks_eq_iff]
  exact Nat.ModEq.add_right_cancel h ((sub b).trans (sub b').symm)

/-- The gap from a time `t`, of which `last` is the stored tick count, to the time `w` behind it. -/
theorem ticksSub_add {p : Params} (hbits : p.tickBits ≤ 16) {last t : U16} (h : truncTicks p last = truncTicks p t)
    (w : U16) : ticksSub p (t + w) last = truncTicks p w := by
  rw [ticksSub_congr hbits h, ticksSub, BitVec.add_comm, BitVec.add_sub_cancel]

end Machine

end Sys2Proof
end

section
/-! PROOFS. A whole PPM frame (O22): an edge stores the gap behind those already there, up to `PPM_MAX_CHANNELS`, and the alarm
publishes what is stored. -/

namespace Sys2Proof.Machine

/-- `u` is in a frame that began with the gaps `gaps`, its last edge at the time `t`: side `b` holds the gaps there is room
for (R208), and the alarm is armed. -/
structure Ppm.Collected (p : Params) (b : Bool) (gaps : List U16) (t : U16) (u : Ppm) : Prop where
  state    : u.state = .rd
  armed    : u.alarmArmed = true
  lastEdge : truncTicks p u.lastEdge = truncTicks p t
  sel      : u.sel = b
  sized    : u.bank.Sized p.ppmMaxChannels
  chIndex  : u.chIndex.toNat = min gaps.length p.ppmMaxChannels
  stored   : gaps.take p.ppmMaxChannels <+: u.bank.side b

/-- A threshold is a tick count. -/
theorem ppmThreshold_lt (p : Params) (c : CfgRecord) : (ppmThreshold p c).toNat < 2 ^ p.tickBits :=
  Nat.lt_of_le_of_lt (Nat.mod_le _ _) (Nat.mod_lt _ (Nat.two_pow_pos _))

/-- A gap below the threshold, in a frame (R207). -/
theorem ppmEdge_channel {p : Params} {c : CfgRecord} {t : U16} {r : Bool} {u : Ppm} (hq : ppmQualifies c r = true)
    (hs : u.state = .rd) (hw : (ticksSub p t u.lastEdge).toNat < (ppmThreshold p c).toNat) :
    (ppmEdge p c t r u).1 = ppmRecord p (ticksSub p t u.lastEdge) (ppmRearm p t (ppmThreshold p c) u) := by
  simp only [ppmEdge, hq, hs, ppmEdgeRd, hw, if_true]

/-- Recording a gap keeps what is collected and puts the gap behind it, if there is room. -/
theorem Ppm.Collected.record {p : Params} (hp : p.Admitted) {b : Bool} {gaps : List U16} {t : U16} {u : Ppm}
    (h : u.Collected p b gaps t) (w : U16) : (ppmRecord p w u).Collected p b (gaps ++ [w]) t := by
  obtain ⟨state, armed, lastEdge, rfl, sized, chIndex, stored⟩ := h
  have hmax := hp.ppm_lt.1
  have length : (gaps ++ [w]).length = gaps.length + 1 := List.length_append
  rcases ppmRecord_cases p w u with ⟨room, e⟩ | ⟨full, e⟩ <;> rw [e]
  · have index : u.chIndex.toNat = gaps.length := by omega
    rw [List.take_of_length_le (by omega)] at stored
    refine ⟨state, armed, lastEdge, rfl, (Banks.write_sized ..).mpr sized, by rw [length]; bv_omega, ?_⟩
    rw [List.take_of_length_le (by omega), index]
    exact Banks.write_behind_prefix stored (by rw [sized.side_length]; omega) w
  · exact ⟨state, armed, lastEdge, rfl, sized, by omega, by rwa [List.take_append_of_le_length (by omega)]⟩

/-- A qualifying edge one gap below the threshold behind the last (R204, R207, R208). -/
theorem Ppm.Collected.edge {p : Params} (hp : p.Admitted) {c : CfgRecord} {r : Bool} (hq : ppmQualifies c r = true)
    {b : Bool} {gaps : List U16} {t : U16} {u : Ppm} (h : u.Collected p b gaps t) {w : U16}
    (hw : w.toNat < (ppmThreshold p c).toNat) :
    (ppmEdge p c (t + w) r u).1.Collected p b (gaps ++ [w]) (t + w) := by
  have gap : ticksSub p (t + w) u.lastEdge = w := by
    rw [ticksSub_add hp.tickBits_le h.lastEdge, truncTicks_of_lt p w (hw.trans (ppmThreshold_lt p c))]
  have rearmed : (ppmRearm p (t + w) (ppmThreshold p c) u).Collected p b gaps (t + w) :=
    { h with armed := rfl, lastEdge := truncTicks_truncTicks p _ }
  rw [ppmEdge_channel hq h.state (by rw [gap]; exact hw), gap]
  exact rearmed.record hp w

/-- The edges of a train of gaps below the threshold collect the gaps. -/
theorem execAll_trainEdges {r : Bool} (gaps : List U16) {s : State} (hp : s.params.Admitted)
    (hq : ppmQualifies s.cfg r = true) (hw : ∀ w ∈ gaps, w.toNat < (ppmThreshold s.params s.cfg).toNat) {b : Bool}
    {done : List U16} {t : U16} (h : s.ppm.Collected s.params b done t) :
    ∃ s' t', execAll (trainEdges r t gaps) s = .next s' ∧ s.KeepsRest s' ∧
      s'.ppm.Collected s.params b (done ++ gaps) t' := by
  induction gaps generalizing s done t with
  | nil => exact ⟨s, t, rfl, .refl s, by rwa [List.append_nil]⟩
  | cons w gaps ih =>
    obtain ⟨s₁, run, keeps, ppm, -⟩ := exec_edge r (t + w) s
    have collected : s₁.ppm.Collected s₁.params b (done ++ [w]) (t + w) := by
      rw [ppm, keeps.params]
      exact h.edge hp hq (hw w (List.mem_cons_self ..))
    obtain ⟨s', t', run', keeps', all⟩ := ih (by rwa [keeps.params]) (by rwa [keeps.cfg])
      (by rw [keeps.params, keeps.cfg]; exact fun w' hw' => hw w' (List.mem_cons_of_mem _ hw')) collected
    refine ⟨s', t', (execAll_cons run).trans run', keeps.trans keeps', ?_⟩
    rwa [keeps.params, List.append_assoc] at all

/-- ALARM_PPM in a frame with enough channels publishes it (R210, R211). -/
theorem ppmAlarm_publishes {p : Params} {u : Ppm} (armed : u.alarmArmed = true) (hs : u.state = .rd)
    (hmin : p.ppmMinChannels ≤ u.chIndex.toNat) :
    (ppmAlarm p u).1 = { u.publish u.chIndex with alarmArmed := false, chIndex := 0, state := .sd } := by
  simp only [ppmAlarm, armed, ppmAlarmFire, hs, ppmCloseFrame, hmin, if_true]
  rfl

/-- Settles O22, by collecting the gaps one by one and publishing them. -/
theorem ppmFrameIsCapturedExactly : Obligations.PpmFrameIsCapturedExactly := by
  intro r s gaps hp sized qualifies state chIndex armed hmin hw
  have start : s.ppm.Collected s.params s.ppm.sel [] s.ppm.lastEdge :=
    { state, armed, sized, lastEdge := rfl, sel := rfl, chIndex := by simp [chIndex], stored := by simp }
  have hq : ppmQualifies s.cfg r = true := by rw [qualifies]; exact BEq.rfl
  obtain ⟨s₁, _, run, keeps, all⟩ := execAll_trainEdges gaps hp hq hw start
  have alarm : s₁.ppm.chIndex.toNat = min gaps.length s.params.ppmMaxChannels := all.chIndex
  have published := ppmAlarm_publishes (p := s₁.params) all.armed all.state (by rwa [keeps.params, alarm])
  refine ⟨s₁.takePpm (ppmAlarm s₁.params s₁.ppm), execAll_append run, ?_⟩
  rw [State.takePpm_ppm, published]
  refine ⟨alarm, congrArg not all.sel, rfl, rfl, rfl, rfl, rfl, keeps.cfg, keeps.srxl, fun k hk hkmax => ?_⟩
  have side : (!!s₁.ppm.sel) = s.ppm.sel := (Bool.not_not _).trans all.sel
  have kept : k < (gaps.take s.params.ppmMaxChannels).length := by
    rw [List.length_take]
    omega
  exact (congrArg (s₁.ppm.bank.read · k) side).trans
    ((Banks.read_of_prefix all.stored kept).trans (congrArg some List.getElem_take))

end Sys2Proof.Machine
end

section
/-! PROOFS. A whole PCM frame (O30): what some symbols do to the decoder is a triple of what holds before them, the symbols, and
what holds behind them; a byte is four data symbols and its check symbol, and the trailer publishes the bytes. -/

namespace Sys2Proof.Machine

open Claims (checkPair sentPairs sentSymbols pcmCells pcmFrameSymbols)

/-! ### Symbols and the pairs they carry (R264 to R266) -/

/-- The symbol that carries the pair `x` behind the pair `last` is taken as `x` (R264). -/
theorem pcmSymbol_of_pair (p : Params) (x : BitVec 2) {u : Pcm} (hs : u.state ≠ .wfs) :
    pcmSymbol p (x.toNat + 3 - u.lastBits.toNat) u = pcmTake p (x.setWidth 8) { u with state := .rd, lastBits := x } := by
  have pair : ∀ x last : BitVec 2, pcmBits (x.toNat + 3 - last.toNat) last = x.setWidth 8 ∧
      ¬ 3 < (x.setWidth 8).toNat ∧ (x.setWidth 8).setWidth 2 = x := by decide
  obtain ⟨bits, valid, back⟩ := pair x u.lastBits
  rw [pcmSymbol, bits, if_neg valid, pcmBegin_eq hs, back]

/-- Four pairs of a byte, most significant first, shifted in behind 0, are the byte (R265). -/
theorem shift_in_pairs (b : Byte) :
    (((((((0 : Byte) <<< 2 ||| (b.extractLsb' 6 2).setWidth 8) <<< 2) ||| (b.extractLsb' 4 2).setWidth 8) <<< 2) |||
      (b.extractLsb' 2 2).setWidth 8) <<< 2) ||| (b.extractLsb' 0 2).setWidth 8 = b := by
  ext i hi
  interval_cases i <;> simp

/-- The check pair by shifts and by pairs (R266). -/
theorem pcmChecksum_eq (b : Byte) : pcmChecksum b = (checkPair b).setWidth 8 := by
  ext i hi
  interval_cases i <;> simp [pcmChecksum, checkPair]

/-! ### Cells -/

/-- The edges of a cell, behind a falling edge of which the unit holds the tick count: a low phase too short for a sync, and
the symbol of the high phase (R260). -/
theorem pcmEdge_cell {p : Params} (hbits : p.tickBits ≤ 16) {t low high : U16} {u : Pcm}
    (last : truncTicks p u.lastEdge = truncTicks p t) (short : ticksToUs p (truncTicks p low) < p.pcmSyncMinUs)
    (hs : u.state ≠ .wfs) :
    pcmEdge p (t + low + high) false (pcmEdge p (t + low) true u).1 =
      pcmSymbol p (pcmClassify p (truncTicks p high))
        { u with lastEdge := truncTicks p (t + low + high), syncPending := false } := by
  have rise : (pcmEdge p (t + low) true u).1 = { u with lastEdge := truncTicks p (t + low), syncPending := false } := by
    rw [pcmEdge, if_pos rfl, ticksSub_add hbits last, decide_eq_false (Nat.not_le_of_lt short)]
  rw [rise, pcmEdge, if_neg Bool.false_ne_true, if_neg Bool.false_ne_true, if_neg hs,
    ticksSub_add hbits (truncTicks_truncTicks p _)]

/-- From any state in which `P` holds of the unit and its time, cells whose high phases classify to `symbols` lead to one in
which `Q` does. -/
def Receives (p : Params) (P : U16 → Pcm → Prop) (symbols : List Nat) (Q : U16 → Pcm → Prop) : Prop :=
  ∀ (s : State) (t : U16) (cells : List (U16 × U16)), s.params = p → P t s.pcm →
    (∀ c ∈ cells, ticksToUs p (truncTicks p c.1) < p.pcmSyncMinUs) →
    cells.map (fun c => pcmClassify p (truncTicks p c.2)) = symbols →
    ∃ s' t', s.KeepsRest s' ∧ Q t' s'.pcm ∧
      ∀ behind, execAll (pcmCells p t (cells ++ behind)) s = execAll (pcmCells p t' behind) s'

/-- One symbol behind a sync. -/
theorem Receives.symbol {p : Params} (hbits : p.tickBits ≤ 16) {P Q : U16 → Pcm → Prop} {k : Nat}
    (before : ∀ t u, P t u → u.state ≠ .wfs ∧ truncTicks p u.lastEdge = truncTicks p t)
    (behind : ∀ t t' u, P t u →
      Q t' (pcmSymbol p k { u with lastEdge := truncTicks p t', syncPending := false }).1) : Receives p P [k] Q := by
  rintro s t cells rfl hP low classified
  obtain ⟨⟨l, h⟩, rfl, hk⟩ := List.map_eq_singleton_iff.mp classified
  obtain ⟨hs, last⟩ := before t s.pcm hP
  obtain ⟨s₁, rise, keeps₁, -, pcm₁⟩ := exec_edge true (t + l) s
  obtain ⟨s₂, fall, keeps₂, -, pcm₂⟩ := exec_edge false (t + l + h) s₁
  rw [pcm₁, keeps₁.params, pcmEdge_cell hbits last (low _ (List.mem_singleton_self _)) hs, hk] at pcm₂
  exact ⟨s₂, t + l + h, keeps₁.trans keeps₂, pcm₂ ▸ behind t _ _ hP, fun _ =>
    (execAll_cons rise).trans (execAll_cons fall)⟩

/-- Symbols behind symbols. -/
theorem Receives.append {p : Params} {P Q R : U16 → Pcm → Prop} {ks ks' : List Nat} (h : Receives p P ks Q)
    (h' : Receives p Q ks' R) : Receives p P (ks ++ ks') R := by
  rintro s t cells hp hP low classified
  obtain ⟨cs, cs', rfl, first, second⟩ := List.map_eq_append_iff.mp classified
  obtain ⟨s₁, t₁, keeps₁, hQ, run₁⟩ := h s t cs hp hP (fun c hc => low c (List.mem_append_left _ hc)) first
  obtain ⟨s₂, t₂, keeps₂, hR, run₂⟩ :=
    h' s₁ t₁ cs' (keeps₁.params.trans hp) hQ (fun c hc => low c (List.mem_append_right _ hc)) second
  exact ⟨s₂, t₂, keeps₁.trans keeps₂, hR, fun behind => by rw [List.append_assoc, run₁, run₂]⟩

/-! ### A frame -/

/-- `u` is behind a sync at the time `t`, with `bytes` at the front of side `b`, and `n` symbols since then, of which `acc` is
the pairs and `last` the last pair. -/
structure Pcm.Collected (p : Params) (b : Bool) (bytes : List Byte) (n : BitVec 3) (acc : Byte) (last : BitVec 2) (t : U16)
    (u : Pcm) : Prop where
  state     : u.state ≠ .wfs
  lastEdge  : truncTicks p u.lastEdge = truncTicks p t
  sel       : u.sel = b
  sized     : u.bank.Sized p.pcmBankSize
  byteIndex : u.byteIndex.toNat = bytes.length
  stored    : bytes <+: u.bank.side b
  symInByte : u.symInByte = n
  acc       : u.acc = acc
  lastBits  : u.lastBits = last

/-- `u` published a frame of 8 channels, which begins with `bytes`, on side `b` (R272). -/
structure Pcm.Published (b : Bool) (bytes : List Byte) (u : Pcm) : Prop where
  count     : u.count = 8
  sel       : u.sel = !b
  newData   : u.newData = true
  receiving : u.receiving = true
  timeout   : u.timeout = 0
  state     : u.state = .wfs
  stored    : bytes <+: u.bank.side b

section

variable {p : Params} (hp : p.Admitted) {b : Bool} {bytes : List Byte} {n : BitVec 3} {acc : Byte} {last : BitVec 2}
include hp

/-- A symbol in a frame: it is taken as the pair it carries, in RD, with the time of its falling edge. -/
theorem Receives.pair (x : BitVec 2) {Q : U16 → Pcm → Prop}
    (taken : ∀ t u, u.Collected p b bytes n acc x t → Q t (pcmTake p (x.setWidth 8) u).1) :
    Receives p (Pcm.Collected p b bytes n acc last) [x.toNat + 3 - last.toNat] Q :=
  .symbol hp.tickBits_le (fun _ _ h => ⟨h.state, h.lastEdge⟩) fun t t' u h => by
    rw [← h.lastBits, pcmSymbol_of_pair p x (u := { u with lastEdge := truncTicks p t', syncPending := false }) h.state]
    exact taken t' _ { h with state := nofun, lastEdge := truncTicks_truncTicks p t', lastBits := rfl }

/-- One of the first four symbols of a byte (R265). -/
theorem receives_data (hbytes : bytes.length < p.pcmDataBytes) (hn : n.toNat < 4) (x : BitVec 2) :
    Receives p (Pcm.Collected p b bytes n acc last) [x.toNat + 3 - last.toNat]
      (Pcm.Collected p b bytes (n + 1) (acc <<< 2 ||| x.setWidth 8) x) :=
  .pair hp x fun t u h => by
    rw [pcmTake, if_pos (by rwa [h.byteIndex]), if_pos (by rwa [h.symInByte])]
    exact { h with symInByte := congrArg (· + 1) h.symInByte, acc := by rw [← h.acc]; rfl }

/-- The fifth symbol of a byte, its check pair, stores the byte (R266). -/
theorem receives_check (hbytes : bytes.length < p.pcmDataBytes) :
    Receives p (Pcm.Collected p b bytes 4 acc last) [(checkPair acc).toNat + 3 - last.toNat]
      (Pcm.Collected p b (bytes ++ [acc]) 0 0 (checkPair acc)) :=
  .pair hp _ fun t u h => by
    obtain ⟨state, lastEdge, rfl, sized, byteIndex, stored, symInByte, rfl, lastBits⟩ := h
    have hmax := hp.pcm_lt.1
    rw [pcmTake, if_pos (by rwa [byteIndex]), if_neg (by rw [symInByte]; decide), pcmCheck, if_pos (pcmChecksum_eq _).symm]
    refine ⟨state, lastEdge, rfl, (Banks.write_sized ..).mpr sized, ?_, ?_, rfl, rfl, lastBits⟩
    · rw [List.length_append, List.length_singleton]
      bv_omega
    · rw [byteIndex]
      exact Banks.write_behind_prefix stored (by rw [sized.side_length]; exact hbytes.trans_le hp.pcmDataBytes_le) _

/-- The five symbols of a byte (R263 to R266). -/
theorem receives_byte (hbytes : bytes.length < p.pcmDataBytes) (d : Byte) :
    Receives p (Pcm.Collected p b bytes 0 0 last) (sentSymbols last.toNat (sentPairs d))
      (Pcm.Collected p b (bytes ++ [d]) 0 0 (checkPair d)) := by
  have data {n : BitVec 3} {acc last} (hn : n.toNat < 4) (x : BitVec 2) :=
    receives_data hp (b := b) (acc := acc) (last := last) hbytes hn x
  have check := receives_check hp (b := b) (acc := d) (last := d.extractLsb' 0 2) hbytes
  have four := (data (acc := 0) (last := last) (n := 0) (by decide) (d.extractLsb' 6 2)).append <|
    (data (n := 1) (by decide) (d.extractLsb' 4 2)).append <|
    (data (n := 2) (by decide) (d.extractLsb' 2 2)).append (data (n := 3) (by decide) (d.extractLsb' 0 2))
  rw [shift_in_pairs] at four
  exact four.append check

/-- The trailer 0xC publishes the bytes (R268, R270, R272). -/
theorem receives_trailer (hbytes : bytes.length = p.pcmDataBytes) :
    Receives p (Pcm.Collected p b bytes 0 0 last) (sentSymbols last.toNat [(3#2).toNat, (0#2).toNat])
      (fun _ u => u.Published b bytes) := by
  have first : Receives p (Pcm.Collected p b bytes 0 0 last) [(3#2).toNat + 3 - last.toNat]
      (Pcm.Collected p b bytes 1 3 3) := .pair hp _ fun t u h => by
    rw [pcmTake, if_neg (by rw [h.byteIndex, hbytes]; exact lt_irrefl _), pcmTrailer, if_neg (by rw [h.symInByte]; decide)]
    exact { h with symInByte := by rw [h.symInByte]; rfl, acc := by rw [h.acc]; rfl }
  have second : Receives p (Pcm.Collected p b bytes 1 3 3) [(0#2).toNat + 3 - (3#2).toNat]
      (fun _ u => u.Published b bytes) := .pair hp _ fun t u h => by
    rw [pcmTake, if_neg (by rw [h.byteIndex, hbytes]; exact lt_irrefl _), pcmTrailer, if_pos (by rw [h.symInByte]; decide),
      pcmFinish, if_pos (by rw [h.acc]; rfl)]
    exact ⟨rfl, congrArg not h.sel, rfl, rfl, rfl, rfl, h.stored⟩
  exact first.append second

/-- The rest of a frame, byte by byte, and its trailer. -/
theorem receives_frame (rest : List Byte) (hbytes : (bytes ++ rest).length = p.pcmDataBytes) :
    Receives p (Pcm.Collected p b bytes 0 0 last)
      (sentSymbols last.toNat (rest.flatMap sentPairs ++ [(3#2).toNat, (0#2).toNat]))
      (fun _ u => u.Published b (bytes ++ rest)) := by
  induction rest generalizing bytes last with
  | nil =>
    rw [List.append_nil] at hbytes ⊢
    exact receives_trailer hp hbytes
  | cons d rest ih =>
    have behind := ih (bytes := bytes ++ [d]) (last := checkPair d) (by rwa [List.append_assoc])
    rw [List.append_assoc] at behind
    refine (receives_byte hp ?_ d).append behind
    rw [← hbytes, List.length_append, List.length_cons]
    omega

end

/-- Settles O30, by the symbols of a frame from the counters that a sync leaves. -/
theorem pcmFrameIsDecodedExactly : Obligations.PcmFrameIsDecodedExactly := by
  intro s bytes cells hp sized hbytes state _ lastBits symInByte acc byteIndex low classified
  have start : s.pcm.Collected s.params s.pcm.sel [] 0 0 0 s.pcm.lastEdge :=
    { sized, symInByte, acc, lastBits, state := by rw [state]; nofun, lastEdge := rfl, sel := rfl,
      byteIndex := by rw [byteIndex]; rfl, stored := List.nil_prefix }
  obtain ⟨t, _, keeps, published, run⟩ :=
    receives_frame hp (bytes := []) bytes hbytes s s.pcm.lastEdge cells rfl start low classified
  obtain ⟨count, sel, newData, receiving, timeout, wfs, stored⟩ := published
  have done := run []
  rw [List.append_nil] at done
  refine ⟨t, done, count, sel, newData, receiving, timeout, wfs, keeps.cfg, keeps.srxl, fun k hk => ?_⟩
  rw [sel, Bool.not_not]
  exact Banks.read_of_prefix stored hk

end Sys2Proof.Machine
end

section
/-! PROOFS. A whole SRXL frame (O36): the header fixes its length, each byte is stored behind those already there, and the last
one has the CRC checked. -/

namespace Sys2Proof.Machine

/-- The channel count of a frame of `n` bytes (R311). -/
def srxlChannels (n : BitVec 6) : BitVec 5 := if n = 27 then 12 else 16

/-- `u` is a decoder that was `u₀` and has `bytes` of a frame of `n` bytes at the front of its active side; what a publication
writes is as it was in `u₀`. -/
structure SrxlCollected (p : Params) (u₀ : Srxl) (n : BitVec 6) (bytes : List Byte) (u : Srxl) : Prop where
  state     : u.state = .rd
  expected  : u.expected = n
  byteIndex : u.byteIndex.toNat = bytes.length
  sized     : u.bank.Sized p.srxlBankSize
  stored    : bytes <+: u.bank.side u.sel
  sel       : u.sel = u₀.sel
  count     : u.count = u₀.count
  newData   : u.newData = u₀.newData
  receiving : u.receiving = u₀.receiving
  timeout   : u.timeout = u₀.timeout

/-- A header byte starts the frame with itself (R305). -/
theorem srxlByte_header {p : Params} (hp : p.Admitted) {header : Byte} {n : BitVec 6}
    (length : srxlFrameLength header = some n) {u : Srxl} (hs : u.state = .sd) (sized : u.bank.Sized p.srxlBankSize)
    (t : U16) : ∃ v, srxlByte p header t u = .ok (v, []) ∧ SrxlCollected p u n [header] v := by
  refine ⟨_, by simp only [srxlByte, hs, srxlHeader, length]; rfl, ?_⟩
  have room : 0 < (u.bank.side u.sel).length := by
    have := hp.srxlBankSize_ge
    rw [sized.side_length]
    omega
  exact
    { state := rfl, expected := rfl, byteIndex := rfl, sized := (Banks.write_sized ..).mpr sized,
      stored := Banks.write_behind_prefix List.nil_prefix room header, sel := rfl, count := rfl, newData := rfl,
      receiving := rfl, timeout := rfl }

section

variable {p : Params} {u₀ u : Srxl} {n : BitVec 6} {bytes : List Byte}

/-- What every byte of a frame does first: it is stored, and re-arms the alarm (R303, R306). -/
def Srxl.storing (p : Params) (d : Byte) (t : U16) (u : Srxl) : Srxl :=
  { srxlRearm p t u with bank := u.bank.write u.sel u.byteIndex.toNat d, byteIndex := u.byteIndex + 1 }

/-- A byte that is stored is behind those already there (R306). -/
theorem SrxlCollected.storing (hp : p.Admitted) (h : SrxlCollected p u₀ n bytes u) (h35 : bytes.length < 35) (d : Byte)
    (t : U16) : SrxlCollected p u₀ n (bytes ++ [d]) (u.storing p d t) := by
  have index := h.byteIndex
  refine { h with byteIndex := ?_, sized := (Banks.write_sized ..).mpr h.sized, stored := ?_ }
  · rw [List.length_append, List.length_singleton]
    change (u.byteIndex + 1).toNat = _
    bv_omega
  · change _ <+: (u.bank.write u.sel u.byteIndex.toNat d).side u.sel
    rw [index]
    exact Banks.write_behind_prefix h.stored (by rw [h.sized.side_length]; exact h35.trans_le hp.srxlBankSize_ge) d

/-- A byte of a frame is stored; if it is the last one, the CRC is checked (R306). -/
theorem srxlByte_frame (hp : p.Admitted) (h : SrxlCollected p u₀ n bytes u) (h35 : bytes.length < 35) (d : Byte) (t : U16) :
    srxlByte p d t u =
      if bytes.length + 1 = n.toNat then srxlCheck (u.storing p d t) else .ok (u.storing p d t, []) := by
  have byte : srxlByte p d t u = srxlStore d (srxlRearm p t u) := by rw [srxlByte, h.state]
  have room : u.byteIndex.toNat < (u.bank.side u.sel).length := by
    rw [h.sized.side_length, h.byteIndex]
    exact h35.trans_le hp.srxlBankSize_ge
  have last : u.byteIndex + 1 = u.expected ↔ bytes.length + 1 = n.toNat := by
    rw [← h.byteIndex, h.expected]
    have := h.byteIndex
    bv_omega
  rw [byte]
  rcases srxlStore_cases d (srxlRearm p t u) with ⟨full, _⟩ | ⟨_, more, e⟩ | ⟨_, done, e⟩
  · exact absurd room (Nat.not_lt_of_le full)
  · rw [e, if_neg (last.not.mp more)]
    rfl
  · rw [e, if_pos (last.mp done)]
    rfl

/-- The check of a whole frame: the CRC of the message against the two bytes behind it (R311). -/
theorem SrxlCollected.check {message : List Byte} {hi lo : Byte} (h : SrxlCollected p u₀ n (message ++ [hi, lo]) u)
    (whole : message.length + 2 = n.toNat) :
    srxlCheck u =
      .ok (if crc16 message = hi ++ lo then srxlAccept (srxlChannels n) u else srxlError .srxlCrc u) := by
  have readHi : u.bank.read u.sel message.length = some hi :=
    (Banks.read_of_prefix h.stored (by simp)).trans (by simp)
  have readLo : u.bank.read u.sel (message.length + 1) = some lo :=
    (Banks.read_of_prefix h.stored (by simp)).trans (by simp)
  have front : (u.bank.side u.sel).take message.length = message :=
    (List.prefix_iff_eq_take.mp ((List.prefix_append ..).trans h.stored)).symm
  rw [srxlCheck, h.expected, ← whole, if_neg (by omega), Nat.add_sub_cancel, show message.length + 2 - 1 = message.length + 1
    by omega, readHi, readLo, front, srxlChannels]
  dsimp only
  split <;> rfl

end

/-! ### Runs of bytes -/

/-- A byte the decoder takes without a fault, as an instruction (R300). -/
theorem exec_uartByte {s : State} {d : Byte} {t : U16} {r : Srxl × List Word}
    (h : srxlByte s.params d t s.srxl = .ok r) : exec (.uartByte d t) s = .next (s.takeSrxl r) := by
  rw [exec, execUartByte, h]
  rfl

/-- A byte that emits no notification only writes the SRXL unit. -/
theorem exec_uartByte_silent {s : State} {d : Byte} {t : U16} {u v : Srxl} (h : srxlByte s.params d t u = .ok (v, [])) :
    exec (.uartByte d t) (s.withSrxl u) = .next (s.withSrxl v) := by
  rw [exec_uartByte (s := s.withSrxl u) h]
  simp [State.takeSrxl, State.withSrxl, State.notify]

/-- The bytes of a frame between its header and its last byte. -/
theorem execAll_frameBytes {s : State} (hp : s.params.Admitted) {u₀ : Srxl} {n : BitVec 6} (hn : n.toNat ≤ 35) (dt : U16)
    (ds behind : List Byte) {u : Srxl} {done : List Byte} (h : SrxlCollected s.params u₀ n done u)
    (hlen : done.length + ds.length < n.toNat) (t : U16) :
    ∃ v t', SrxlCollected s.params u₀ n (done ++ ds) v ∧
      execAll (frameBytes dt t (ds ++ behind)) (s.withSrxl u) = execAll (frameBytes dt t' behind) (s.withSrxl v) := by
  induction ds generalizing u done t with
  | nil => exact ⟨u, t, by rwa [List.append_nil], rfl⟩
  | cons d ds ih =>
    rw [List.length_cons] at hlen
    have h35 : done.length < 35 := by omega
    have more := srxlByte_frame hp h h35 d t
    rw [if_neg (by omega)] at more
    obtain ⟨v, t', all, run⟩ := ih (h.storing hp h35 d t)
      (by rw [List.length_append, List.length_singleton]; omega) (t + dt)
    rw [List.append_assoc] at all
    exact ⟨v, t', all, (execAll_cons (exec_uartByte_silent more)).trans run⟩

/-- The last byte of a frame has the CRC over the message in front of it checked (R311). -/
theorem srxlByte_last {p : Params} (hp : p.Admitted) {u₀ u : Srxl} {n : BitVec 6} (hn : n.toNat ≤ 35) {message : List Byte}
    {hi : Byte} (h : SrxlCollected p u₀ n (message ++ [hi]) u) (whole : message.length + 2 = n.toNat) (lo : Byte) (t : U16) :
    ∃ v, SrxlCollected p u₀ n (message ++ [hi, lo]) v ∧
      srxlByte p lo t u =
        .ok (if crc16 message = hi ++ lo then srxlAccept (srxlChannels n) v else srxlError .srxlCrc v) := by
  have length : (message ++ [hi]).length = message.length + 1 := List.length_append
  have h35 : (message ++ [hi]).length < 35 := by omega
  have all := h.storing hp h35 lo t
  rw [List.append_assoc] at all
  refine ⟨_, all, ?_⟩
  rw [srxlByte_frame hp h h35, if_pos (by omega)]
  exact all.check whole

/-- The bytes of a whole frame, from SD. -/
theorem execAll_frame {s : State} (hp : s.params.Admitted) (sized : s.srxl.bank.Sized s.params.srxlBankSize)
    (hs : s.srxl.state = .sd) {header hi lo : Byte} {body : List Byte} {n : BitVec 6}
    (length : srxlFrameLength header = some n) (hn : n.toNat ≤ 35) (whole : body.length + 3 = n.toNat) (t dt : U16) :
    ∃ v, SrxlCollected s.params s.srxl n (header :: body ++ [hi, lo]) v ∧
      execAll (frameBytes dt t (header :: body ++ [hi, lo])) s =
        .next (s.takeSrxl
          (if crc16 (header :: body) = hi ++ lo then srxlAccept (srxlChannels n) v else srxlError .srxlCrc v)) := by
  obtain ⟨u₁, first, started⟩ := srxlByte_header hp length hs sized t
  obtain ⟨u₂, t₂, collected, run⟩ := execAll_frameBytes hp hn dt (body ++ [hi]) [lo] started
    (by simp only [List.length_append, List.length_singleton]; omega) (t + dt)
  obtain ⟨v, all, last⟩ := srxlByte_last hp hn (message := header :: body) collected (by rw [List.length_cons]; omega) lo t₂
  refine ⟨v, all, ?_⟩
  rw [List.append_assoc] at run
  exact (execAll_cons (exec_uartByte_silent (s := s) first)).trans
    (run.trans (execAll_cons (exec_uartByte (s := s.withSrxl u₂) last)))

/-- The length and the channel count that a header fixes (R305, R311). -/
theorem header_cases {header : Byte} {body : List Byte}
    (h : (header = 0xA1 ∧ body.length = 24) ∨ (header = 0xA2 ∧ body.length = 32)) :
    ∃ n, srxlFrameLength header = some n ∧ n.toNat ≤ 35 ∧ body.length + 3 = n.toNat ∧
      srxlChannels n = if header = 0xA1 then 12 else 16 := by
  rcases h with ⟨rfl, length⟩ | ⟨rfl, length⟩ <;> rw [length]
  · exact ⟨27, rfl, by decide, rfl, rfl⟩
  · exact ⟨35, rfl, by decide, rfl, rfl⟩

/-- Settles O36, by the bytes collected from the header on and the check of the last one. -/
theorem srxlFrameIsDecodedExactly : Obligations.SrxlFrameIsDecodedExactly := by
  intro s header hi lo body t dt hp sized hs hframe
  obtain ⟨n, length, hn, whole, channels⟩ := header_cases hframe
  obtain ⟨v, all, run⟩ := execAll_frame hp sized hs (hi := hi) (lo := lo) length hn whole t dt
  by_cases right : crc16 (header :: body) = hi ++ lo
  · rw [if_pos right] at run
    refine ⟨_, run, rfl, rfl, rfl, rfl, fun _ => ⟨channels, congrArg not all.sel, rfl, rfl, rfl, fun k hk => ?_⟩,
      absurd right⟩
    have side : (!!v.sel) = v.sel := Bool.not_not _
    exact (congrArg (v.bank.read · k) side).trans (Banks.read_of_prefix all.stored hk)
  · rw [if_neg right] at run
    exact ⟨_, run, rfl, rfl, rfl, rfl, (absurd · right), fun _ =>
      ⟨all.count, all.sel, all.newData, all.receiving, all.timeout, rfl⟩⟩

end Sys2Proof.Machine
end

section
/-! PROOFS. The PPM decoder, one edge and one alarm at a time (O16 to O21): an equation for each case of each procedure,
what a procedure of the unit says of EDGE and ALARM_PPM, and the two orders of an alarm and the edge that closes the
frame. -/

namespace Sys2Proof.Machine

open Claims (Qualifies EdgePpm)

/-! ### The words the decoder emits (R148) -/

theorem noteSync_ppm : noteSync .ppm = 0x11000000 := by decide

theorem noteFrame_ppm (count : U16) : noteFrame .ppm count = 0x2100#16 ++ count :=
  congrArg (· ++ count) (show (2#4 ++ 0#2 ++ DecoderId.ppm.code ++ 0#8 : U16) = 0x2100#16 by decide)

/-! ### The procedures, case by case (R202 to R211) -/

theorem ppmQualifies_iff {r : Bool} {s : State} : ppmQualifies s.cfg r = true ↔ Qualifies r s := beq_iff_eq

section

variable {p : Params} {c : CfgRecord} {t w : U16} {r : Bool} {u : Ppm}

theorem ppmRecord_room (h : u.chIndex.toNat < p.ppmMaxChannels) :
    ppmRecord p w u = { u with bank := u.bank.write u.sel u.chIndex.toNat w, chIndex := u.chIndex + 1 } := if_pos h

theorem ppmRecord_full (h : p.ppmMaxChannels ≤ u.chIndex.toNat) : ppmRecord p w u = u := if_neg (Nat.not_lt.mpr h)

theorem ppmCloseFrame_publishes (h : p.ppmMinChannels ≤ u.chIndex.toNat) :
    ppmCloseFrame p u =
      ({ u.publish u.chIndex with chIndex := 0 }, [noteFrame .ppm (u.chIndex.setWidth 16)]) := if_pos h

theorem ppmCloseFrame_drops (h : u.chIndex.toNat < p.ppmMinChannels) :
    ppmCloseFrame p u = ({ u with chIndex := 0 }, []) := if_neg (Nat.not_le.mpr h)

/-- Closing a frame neither reads nor writes what an edge re-arms (R204, R211). -/
theorem ppmCloseFrame_rearm (p : Params) (t thr : U16) (u : Ppm) :
    ppmCloseFrame p (ppmRearm p t thr u) = (ppmRearm p t thr (ppmCloseFrame p u).1, (ppmCloseFrame p u).2) := by
  by_cases h : p.ppmMinChannels ≤ u.chIndex.toNat
  · rw [ppmCloseFrame_publishes h]
    exact ppmCloseFrame_publishes h
  · rw [ppmCloseFrame_drops (Nat.not_le.mp h)]
    exact ppmCloseFrame_drops (Nat.not_le.mp h)

/-- Closing a frame neither reads nor writes the alarm (R211). -/
theorem ppmCloseFrame_disarm (p : Params) (u : Ppm) :
    ppmCloseFrame p { u with alarmArmed := false } =
      ({ (ppmCloseFrame p u).1 with alarmArmed := false }, (ppmCloseFrame p u).2) := by
  by_cases h : p.ppmMinChannels ≤ u.chIndex.toNat
  · rw [ppmCloseFrame_publishes h]
    exact ppmCloseFrame_publishes h
  · rw [ppmCloseFrame_drops (Nat.not_le.mp h)]
    exact ppmCloseFrame_drops (Nat.not_le.mp h)

theorem ppmEdge_other (h : ¬ ppmQualifies c r = true) : ppmEdge p c t r u = (u, []) := if_neg h

theorem ppmEdge_wfs (hq : ppmQualifies c r = true) (hs : u.state = .wfs) :
    ppmEdge p c t r u = (ppmRearm p t (ppmThreshold p c) u, []) := by
  rw [ppmEdge, if_pos hq, hs]

theorem ppmEdge_sd (hq : ppmQualifies c r = true) (hs : u.state = .sd) :
    ppmEdge p c t r u = ({ ppmRearm p t (ppmThreshold p c) u with state := .rd }, []) := by
  rw [ppmEdge, if_pos hq, hs]

theorem ppmEdge_rd_channel (hq : ppmQualifies c r = true) (hs : u.state = .rd)
    (hw : (ticksSub p t u.lastEdge).toNat < (ppmThreshold p c).toNat) :
    ppmEdge p c t r u = (ppmRecord p (ticksSub p t u.lastEdge) (ppmRearm p t (ppmThreshold p c) u), []) := by
  simp only [ppmEdge, hq, hs, ppmEdgeRd, hw, if_true]

theorem ppmEdge_rd_sync (hq : ppmQualifies c r = true) (hs : u.state = .rd)
    (hw : (ppmThreshold p c).toNat ≤ (ticksSub p t u.lastEdge).toNat) :
    ppmEdge p c t r u =
      (ppmRearm p t (ppmThreshold p c) (ppmCloseFrame p u).1, (ppmCloseFrame p u).2 ++ [noteSync .ppm]) := by
  simp only [ppmEdge, hq, hs, ppmEdgeRd, Nat.not_lt.mpr hw, ppmCloseFrame_rearm, if_true, if_false]

theorem ppmAlarm_unarmed (h : u.alarmArmed = false) : ppmAlarm p u = (u, []) := by
  rw [ppmAlarm, h]
  rfl

theorem ppmAlarm_armed (h : u.alarmArmed = true) : ppmAlarm p u = ppmAlarmFire p { u with alarmArmed := false } :=
  if_pos h

theorem ppmAlarm_wfs (armed : u.alarmArmed = true) (hs : u.state = .wfs) :
    ppmAlarm p u = ({ u with alarmArmed := false, state := .sd }, [noteSync .ppm]) := by
  simp only [ppmAlarm_armed armed, ppmAlarmFire, hs]

theorem ppmAlarm_sd (armed : u.alarmArmed = true) (hs : u.state = .sd) :
    ppmAlarm p u = ({ u with alarmArmed := false }, []) := by
  simp only [ppmAlarm_armed armed, ppmAlarmFire, hs]

theorem ppmAlarmFire_rd (hs : u.state = .rd) :
    ppmAlarmFire p u = ({ (ppmCloseFrame p u).1 with state := .sd }, (ppmCloseFrame p u).2 ++ [noteSync .ppm]) := by
  rw [ppmAlarmFire, hs]

theorem ppmAlarm_rd (armed : u.alarmArmed = true) (hs : u.state = .rd) :
    ppmAlarm p u =
      ({ (ppmCloseFrame p u).1 with alarmArmed := false, state := .sd }, (ppmCloseFrame p u).2 ++ [noteSync .ppm]) := by
  rw [ppmAlarm_armed armed, ppmAlarmFire_rd (u := { u with alarmArmed := false }) hs, ppmCloseFrame_disarm]

/-! ### What every qualifying edge does (R204) -/

/-- The last edge is at `t`, and the alarm is armed and due `thr` behind it. -/
structure Ppm.RearmedAt (p : Params) (t thr : U16) (u : Ppm) : Prop where
  lastEdge : u.lastEdge = truncTicks p t
  alarmAt  : u.alarmAt = truncTicks p (t + thr)
  armed    : u.alarmArmed = true

theorem ppmRearm_rearmedAt (p : Params) (t thr : U16) (u : Ppm) : (ppmRearm p t thr u).RearmedAt p t thr :=
  ⟨rfl, rfl, rfl⟩

theorem Ppm.RearmedAt.record {thr : U16} (h : u.RearmedAt p t thr) (w : U16) : (ppmRecord p w u).RearmedAt p t thr := by
  rcases ppmRecord_cases p w u with ⟨-, e⟩ | ⟨-, e⟩ <;> rw [e]
  · exact ⟨h.lastEdge, h.alarmAt, h.armed⟩
  · exact h

theorem ppmEdge_rearmedAt (hq : ppmQualifies c r = true) :
    (ppmEdge p c t r u).1.RearmedAt p t (ppmThreshold p c) := by
  cases hs : u.state with
  | wfs => rw [ppmEdge_wfs hq hs]; exact ppmRearm_rearmedAt ..
  | sd => rw [ppmEdge_sd hq hs]; exact ⟨rfl, rfl, rfl⟩
  | rd =>
    by_cases hw : (ticksSub p t u.lastEdge).toNat < (ppmThreshold p c).toNat
    · rw [ppmEdge_rd_channel hq hs hw]; exact (ppmRearm_rearmedAt ..).record _
    · rw [ppmEdge_rd_sync hq hs (Nat.not_lt.mp hw)]; exact ppmRearm_rearmedAt ..

end

/-! ### EDGE and ALARM_PPM on the whole state (R200, R201) -/

/-- EDGE does to `ppm` what `ppm_edge` does, and the words behind its own are the PCM decoder's. -/
theorem edgePpm_of_ppmEdge {r : Bool} {t : U16} {s : State} {u : Ppm} {notes : List Word}
    (h : ppmEdge s.params s.cfg t r s.ppm = (u, notes)) : EdgePpm r t s u notes := by
  refine ⟨(pcmEdge s.params t r s.pcm).1, (pcmEdge s.params t r s.pcm).2, ?_, pcmEdge_notes s.params t r s.pcm⟩
  change Host.Outcome.next ((s.takePpm (ppmEdge s.params s.cfg t r s.ppm)).takePcm _) = _
  rw [h]
  rfl

/-- ALARM_PPM writes what `ppm_alarm` answers, and nothing else. -/
theorem exec_alarmPpm {s : State} {u : Ppm} {notes : List Word} (h : ppmAlarm s.params s.ppm = (u, notes)) :
    exec .alarmPpm s = .next { s with ppm := u, notifications := s.notifications ++ notes } :=
  congrArg (fun r => Host.Outcome.next (s.takePpm r)) h

/-- Of two PPM procedures one behind the other, the second writes the unit, and both write the port. -/
theorem State.takePpm_takePpm (s : State) (x y : Ppm × List Word) :
    (s.takePpm x).takePpm y = s.takePpm (y.1, x.2 ++ y.2) :=
  congrArg (fun ns => { s with ppm := y.1, notifications := ns }) (List.append_assoc ..)

/-- Settles O16, by the cases of `ppm_edge`. -/
theorem polarityChoosesQualifyingEdges : Obligations.PolarityChoosesQualifyingEdges := by
  intro r t s
  refine ⟨fun hq => edgePpm_of_ppmEdge (ppmEdge_other (mt ppmQualifies_iff.mp hq)), fun hq => ?_⟩
  obtain ⟨lastEdge, alarmAt, armed⟩ :=
    ppmEdge_rearmedAt (p := s.params) (t := t) (u := s.ppm) (ppmQualifies_iff.mpr hq)
  exact ⟨_, _, edgePpm_of_ppmEdge rfl, lastEdge, alarmAt, armed⟩

/-- Settles O17. -/
theorem edgeOutsidePpmFrame : Obligations.EdgeOutsidePpmFrame := by
  intro r t s hq
  rw [← ppmQualifies_iff] at hq
  exact ⟨fun hs => edgePpm_of_ppmEdge (ppmEdge_wfs hq hs), fun hs => edgePpm_of_ppmEdge (ppmEdge_sd hq hs)⟩

/-- Settles O18: the bank is the old one with one write, at the channel index. -/
theorem channelGapIsRecorded : Obligations.ChannelGapIsRecorded := by
  intro r t s hq hs hw
  have edge := ppmEdge_rd_channel (p := s.params) (t := t) (ppmQualifies_iff.mpr hq) hs hw
  refine ⟨fun room sized => ?_, fun full => ?_⟩
  · rw [ppmRecord_room (u := ppmRearm s.params t _ s.ppm) room] at edge
    refine ⟨_, ⟨Banks.read_write_same _ _ _ _ ?_, fun _ _ => Banks.read_write_other _ _ _ _ _ _⟩,
      edgePpm_of_ppmEdge edge⟩
    rwa [sized.side_length]
  · rw [ppmRecord_full (u := ppmRearm s.params t _ s.ppm) full] at edge
    exact edgePpm_of_ppmEdge edge

/-- Settles O19, by the two cases of `ppm_close_frame`. -/
theorem syncGapClosesPpmFrame : Obligations.SyncGapClosesPpmFrame := by
  intro r t s hq hs hw
  have edge := ppmEdge_rd_sync (p := s.params) (t := t) (ppmQualifies_iff.mpr hq) hs hw
  refine ⟨fun enough => ?_, fun few => ?_⟩
  · rw [ppmCloseFrame_publishes enough, noteFrame_ppm, noteSync_ppm] at edge
    exact edgePpm_of_ppmEdge edge
  · rw [ppmCloseFrame_drops few, noteSync_ppm] at edge
    exact edgePpm_of_ppmEdge edge

/-- Settles O20, by the cases of `ppm_alarm`. -/
theorem alarmPpmFiresOnce : Obligations.AlarmPpmFiresOnce := by
  intro s
  refine ⟨fun unarmed => ?_, fun armed => ⟨fun hs => ?_, fun hs => ?_, fun hs enough => ?_, fun hs few => ?_⟩⟩
  · rw [exec_alarmPpm (ppmAlarm_unarmed unarmed), List.append_nil]
  · rw [exec_alarmPpm (ppmAlarm_wfs armed hs), noteSync_ppm]
  · rw [exec_alarmPpm (ppmAlarm_sd armed hs), List.append_nil]
  · rw [exec_alarmPpm (ppmAlarm_rd armed hs), ppmCloseFrame_publishes enough, noteFrame_ppm, noteSync_ppm]
    rfl
  · rw [exec_alarmPpm (ppmAlarm_rd armed hs), ppmCloseFrame_drops few, noteSync_ppm]
    rfl

/-! ### The alarm and the closing edge (R218 item 4) -/

/-- Closing a frame leaves the decoder in its state (R211). -/
theorem ppmCloseFrame_state (p : Params) (u : Ppm) : (ppmCloseFrame p u).1.state = u.state := by
  rcases ppmCloseFrame_cases p u with ⟨-, e⟩ | ⟨-, e⟩ <;> rw [e]

/-- An alarm in a frame, and then a qualifying edge, close the frame as an edge a sync gap behind the last does alone:
the alarm emits the words, and the edge re-arms and starts the next frame. -/
theorem ppmEdge_after_ppmAlarm {p : Params} {c : CfgRecord} {t : U16} {r : Bool} {u : Ppm}
    (hq : ppmQualifies c r = true) (hs : u.state = .rd) (armed : u.alarmArmed = true)
    (hw : (ppmThreshold p c).toNat ≤ (ticksSub p t u.lastEdge).toNat) :
    ppmEdge p c t r (ppmAlarm p u).1 = ((ppmEdge p c t r u).1, []) ∧
      (ppmAlarm p u).2 = (ppmEdge p c t r u).2 := by
  have state : (ppmCloseFrame p u).1.state = .rd := (ppmCloseFrame_state p u).trans hs
  rw [ppmAlarm_rd armed hs, ppmEdge_rd_sync hq hs hw, ppmEdge_sd hq rfl]
  refine ⟨?_, rfl⟩
  rw [ppmRearm, ppmRearm, ← state]

/-- Settles O21: both orders answer the one state, since the PCM decoder sees the same edge. -/
theorem edgeAndAlarmAgreeInEitherOrder : Obligations.EdgeAndAlarmAgreeInEitherOrder := by
  intro r t s hq hs armed hw
  rw [← ppmQualifies_iff] at hq
  obtain ⟨edge, notes⟩ := ppmEdge_after_ppmAlarm hq hs armed hw
  have same : (s.takePpm (ppmAlarm s.params s.ppm)).takePpm (ppmEdge s.params s.cfg t r (ppmAlarm s.params s.ppm).1) =
      s.takePpm (ppmEdge s.params s.cfg t r s.ppm) := by
    rw [State.takePpm_takePpm, edge, notes, List.append_nil]
  refine ⟨_, _, rfl, rfl, congrArg (State.takePcm · (pcmEdge s.params t r s.pcm)) same.symm, ?_⟩
  rw [State.takePcm_ppm, State.takePpm_ppm, ppmEdge_rd_sync hq hs hw]
  exact ⟨(ppmCloseFrame_state s.params s.ppm).trans hs, (ppmCloseFrame_frame s.params s.ppm).1⟩

end Sys2Proof.Machine
end

section
/-! PROOFS. A silent PPM decoder (O59): TICK words count the timeout up, one of them expires it, and behind that one
nothing happens any more; each phase is a run of its own, and their ERROR words add up. -/

namespace Sys2Proof.Machine

open Claims (errorsOf)

/-! ### ERROR words of the PPM decoder (R148) -/

theorem errorsOf_append (d : BitVec 2) (ns ms : List Word) : errorsOf d (ns ++ ms) = errorsOf d ns + errorsOf d ms :=
  List.countP_append

theorem pcmTick_errorsOf_ppm (p : Params) (u : Pcm) : errorsOf 1 (pcmTick p u).2 = 0 := by
  unfold pcmTick
  split <;> rfl

theorem srxlTick_errorsOf_ppm (p : Params) (u : Srxl) : errorsOf 1 (srxlTick p u).2 = 0 := by
  unfold srxlTick
  split <;> rfl

/-! ### Runs of TICK words (R450) -/

/-- `n` TICK words lead from `s` to `t`, and the PPM decoder emits `errors` ERROR words on the way. -/
structure TicksTo (n : Nat) (s t : State) (errors : Nat) : Prop where
  run    : execAll (List.replicate n .tick) s = .next t
  params : t.params = s.params
  notes  : ∃ ns, t.notifications = s.notifications ++ ns ∧ errorsOf 1 ns = errors

namespace TicksTo

theorem refl (s : State) : TicksTo 0 s s 0 := ⟨rfl, rfl, [], (List.append_nil _).symm, rfl⟩

theorem trans {n m e e' : Nat} {s t u : State} (h : TicksTo n s t e) (h' : TicksTo m t u e') :
    TicksTo (n + m) s u (e + e') := by
  obtain ⟨ns, notes, errors⟩ := h.notes
  obtain ⟨ns', notes', errors'⟩ := h'.notes
  refine ⟨?_, h'.params.trans h.params, ns ++ ns', ?_, ?_⟩
  · rw [List.replicate_add, execAll_append h.run, h'.run]
  · rw [notes', notes, List.append_assoc]
  · rw [errorsOf_append, errors, errors']

/-- One TICK moves the PPM decoder by `ppm_tick`, and the other two emit no word in its name. -/
theorem one (s : State) :
    ∃ t, TicksTo 1 s t (errorsOf 1 (ppmTick s.params s.ppm).2) ∧ t.ppm = (ppmTick s.params s.ppm).1 := by
  refine ⟨_, ⟨rfl, rfl, (ppmTick s.params s.ppm).2 ++ (pcmTick s.params s.pcm).2 ++ (srxlTick s.params s.srxl).2,
    ?_, ?_⟩, rfl⟩
  · rw [← List.append_assoc, ← List.append_assoc]
    rfl
  · rw [errorsOf_append, errorsOf_append, pcmTick_errorsOf_ppm, srxlTick_errorsOf_ppm]
    rfl

/-- Ticks that stay below the limit only count (R213). -/
theorem counting {s : State} (hlimit : s.params.ppmTimeoutTicks < 2 ^ 8) {n : Nat}
    (below : s.ppm.timeout.toNat + n < s.params.ppmTimeoutTicks) :
    ∃ t, TicksTo n s t 0 ∧ t.ppm = { s.ppm with timeout := s.ppm.timeout + BitVec.ofNat 8 n } := by
  induction n with
  | zero => exact ⟨s, refl s, by rw [BitVec.add_zero]⟩
  | succ n ih =>
    obtain ⟨t, ticks, ppm⟩ := ih (by omega)
    obtain ⟨t', tick, ppm'⟩ := one t
    have counted : t.ppm.timeout.toNat = s.ppm.timeout.toNat + n := by
      rw [ppm]
      bv_omega
    rw [ticks.params] at tick ppm'
    rcases ppmTick_cases s.params t.ppm hlimit with ⟨reached, -⟩ | ⟨-, -, e⟩ | ⟨reached, -, -⟩
    · omega
    · rw [e] at tick ppm'
      refine ⟨t', ticks.trans tick, ?_⟩
      rw [ppm', ppm, BitVec.ofNat_add, ← BitVec.add_assoc]
      rfl
    · omega

/-- At the limit the counter saturates, and the decoder stays as it is (R213). -/
theorem saturated {s : State} (reached : s.params.ppmTimeoutTicks ≤ s.ppm.timeout.toNat) (n : Nat) :
    ∃ t, TicksTo n s t 0 ∧ t.ppm = s.ppm := by
  induction n with
  | zero => exact ⟨s, refl s, rfl⟩
  | succ n ih =>
    obtain ⟨t, ticks, ppm⟩ := ih
    obtain ⟨t', tick, ppm'⟩ := one t
    have e : ppmTick t.params t.ppm = (t.ppm, []) := by
      rw [ticks.params, ppm, ppmTick, timeoutTick, if_neg (Nat.not_lt.mpr reached)]
    rw [e] at tick ppm'
    exact ⟨t', ticks.trans tick, ppm'.trans ppm⟩

/-- The tick that reaches the limit resets the decoder, with one ERROR word (R213, R215). -/
theorem expiring {s : State} (hlimit : s.params.ppmTimeoutTicks < 2 ^ 8)
    (last : s.ppm.timeout.toNat + 1 = s.params.ppmTimeoutTicks) :
    ∃ t, TicksTo 1 s t 1 ∧ t.ppm = ppmFullReset { s.ppm with timeout := s.ppm.timeout + 1 } ∧
      t.ppm.timeout.toNat = s.params.ppmTimeoutTicks := by
  obtain ⟨t, tick, ppm⟩ := one s
  rcases ppmTick_cases s.params s.ppm hlimit with ⟨reached, -⟩ | ⟨below, -, -⟩ | ⟨-, timeout, e⟩
  · omega
  · omega
  · rw [e] at tick ppm
    exact ⟨t, tick, ppm, by rw [ppm]; exact timeout⟩

end TicksTo

/-- Settles O59: the ticks that count, the one that expires, and the ones behind it. -/
theorem silentPpmDecoderAgesOut : Obligations.SilentPpmDecoderAgesOut := by
  intro s n hlimit
  refine ⟨fun below => ?_, fun start reached => ?_⟩
  · obtain ⟨t, ticks, ppm⟩ := TicksTo.counting hlimit below
    exact ⟨t, ticks.run, ppm⟩
  · obtain ⟨k, last⟩ : ∃ k, s.ppm.timeout.toNat + k + 1 = s.params.ppmTimeoutTicks :=
      ⟨s.params.ppmTimeoutTicks - s.ppm.timeout.toNat - 1, by omega⟩
    obtain ⟨m, rfl⟩ : ∃ m, n = k + 1 + m := ⟨n - (k + 1), by omega⟩
    obtain ⟨t₁, counting, ppm₁⟩ := TicksTo.counting hlimit (s := s) (n := k) (by omega)
    have counted : t₁.ppm.timeout.toNat = s.ppm.timeout.toNat + k := by
      rw [ppm₁]
      bv_omega
    obtain ⟨t₂, expiring, ppm₂, timeout⟩ :=
      TicksTo.expiring (s := t₁) (by rwa [counting.params]) (by rw [counting.params, counted, last])
    rw [counting.params] at timeout
    obtain ⟨t, saturated, ppm⟩ :=
      TicksTo.saturated (s := t₂) (by rw [expiring.params, counting.params, timeout]) m
    have ticks := (counting.trans expiring).trans saturated
    obtain ⟨ns, notes, errors⟩ := ticks.notes
    rw [← ppm] at ppm₂ timeout
    refine ⟨t, ns, ticks.run, ?_, ?_, ?_, ?_, timeout, notes, errors⟩ <;> rw [ppm₂] <;> rfl

end Sys2Proof.Machine
end

section
/-! PROOFS. The PCM decoder, one edge at a time (O23 to O29): the window of a symbol, an equation for each case of each
procedure, what a procedure of the unit says of EDGE, and the pair a valid symbol recovers. -/

namespace Sys2Proof

/-- The ten slots that relocation and publication use fit a bank (R101). -/
theorem Params.Admitted.pcmBankSize_ge {p : Params} (h : p.Admitted) : 10 ≤ p.pcmBankSize := by
  obtain ⟨-, -, -, -, -, -, -, hsize, -⟩ := h
  exact hsize

theorem Params.Admitted.pcmCenterUs_increase {p : Params} (h : p.Admitted) : p.pcmCenterUs.toList.Pairwise (· < ·) := by
  obtain ⟨-, -, -, -, -, -, -, -, -, -, -, -, -, -, -, -, -, -, -, -, -, -, -, increase⟩ := h
  exact increase

namespace Machine

open Claims (EdgePcm tickCount pcmGap symbolAt TakesSymbol ValidSymbol bitsAt checkPair pcmFailed pcmAccepted)

/-! ### The window of a symbol (R250) -/

/-- How many numbers of an increasing list are at most `x` says which of them are. -/
theorem lt_countP_le_iff {l : List Nat} (increase : l.Pairwise (· < ·)) (x : Nat) {k : Nat} (hk : k < l.length) :
    k < l.countP (fun b => decide (b ≤ x)) ↔ l[k] ≤ x := by
  induction l generalizing k with
  | nil => exact absurd hk (Nat.not_lt_zero k)
  | cons a l ih =>
    obtain ⟨least, increase⟩ := List.pairwise_cons.mp increase
    by_cases ha : a ≤ x
    · rw [List.countP_cons_of_pos (p := fun b => decide (b ≤ x)) (decide_eq_true ha)]
      cases k with
      | zero => simp [ha]
      | succ k => simpa using ih increase (Nat.lt_of_succ_lt_succ hk)
    · have above : ∀ b ∈ a :: l, ¬ b ≤ x := by
        intro b hb
        rcases List.mem_cons.mp hb with rfl | hb
        · exact ha
        · exact fun hx => ha ((least b hb).le.trans hx)
      rw [List.countP_eq_zero.mpr fun b hb => by simpa using above b hb]
      simp only [Nat.not_lt_zero, above _ (List.getElem_mem hk)]

/-- The boundaries increase with the centres (R251). -/
theorem pcmBoundaries_increase {p : Params} (hp : p.Admitted) : (pcmBoundaries p).Pairwise (· < ·) :=
  hp.pcmCenterUs_increase.map _ fun _ _ h => Nat.add_lt_add_right h _

/-- A gap is above window `k` exactly when it reaches boundary `k`. -/
theorem lt_pcmClassify_iff {p : Params} (hp : p.Admitted) (gap : U16) {k : Nat} (hk : k < 7) :
    k < pcmClassify p gap ↔ p.pcmCenterUs[k] + p.pcmGuardUs ≤ ticksToUs p gap := by
  have boundaries : k < (pcmBoundaries p).length := by simpa [pcmBoundaries] using hk
  rw [pcmClassify, lt_countP_le_iff (pcmBoundaries_increase hp) _ boundaries]
  simp [pcmBoundaries]

/-- Settles O24, by counting the boundaries a gap reaches, which increase. -/
theorem pcmSymbolIsItsWindow : Obligations.PcmSymbolIsItsWindow := by
  intro p gap hp
  refine ⟨pcmClassify_le p gap, fun k hk => ?_, fun k hk => lt_pcmClassify_iff hp gap hk⟩
  exact not_lt.symm.trans ((not_congr (lt_pcmClassify_iff hp gap hk)).trans not_le)

/-! ### The words the decoder emits (R148) -/

theorem noteSync_pcm : noteSync .pcm = 0x12000000 := by decide

theorem noteFrame_pcm_eight : noteFrame .pcm ((8 : BitVec 4).setWidth 16) = 0x22000008 := by decide

theorem noteFrame_pcm_ten : noteFrame .pcm ((10 : BitVec 4).setWidth 16) = 0x2200000A := by decide

theorem noteError_pcmDesync : noteError (some .pcm) .pcmDesync = 0x32100000 := by decide

theorem noteError_pcmChecksum : noteError (some .pcm) .pcmChecksum = 0x32110000 := by decide

theorem noteError_pcmTrailer : noteError (some .pcm) .pcmTrailer = 0x32120000 := by decide

/-! ### EDGE on the whole state (R200) -/

/-- EDGE does to `pcm` what `pcm_edge` does, and the words before its own are the PPM decoder's. -/
theorem edgePcm_of_pcmEdge {r : Bool} {t : U16} {s : State} {v : Pcm} {notes : List Word}
    (h : pcmEdge s.params t r s.pcm = (v, notes)) : EdgePcm r t s v notes := by
  refine ⟨(ppmEdge s.params s.cfg t r s.ppm).1, (ppmEdge s.params s.cfg t r s.ppm).2, ?_,
    ppmEdge_notes s.params s.cfg t r s.ppm⟩
  change Host.Outcome.next (State.takePcm _ (pcmEdge s.params t r s.pcm)) = _
  rw [h]
  rfl

/-! ### Edges without a symbol (R260, R262) -/

section

variable {p : Params} {t : U16} {u : Pcm}

theorem pcmEdge_rise :
    pcmEdge p t true u =
      ({ u with
          lastEdge := truncTicks p t,
          syncPending := decide (p.pcmSyncMinUs ≤ ticksToUs p (ticksSub p t u.lastEdge)) }, []) := if_pos rfl

theorem pcmEdge_fall_sync (pending : u.syncPending = true) :
    pcmEdge p t false u = pcmSync { u with lastEdge := truncTicks p t, syncPending := false } := by
  rw [pcmEdge, if_neg Bool.false_ne_true, if_pos pending]

theorem pcmEdge_fall_wfs (pending : u.syncPending = false) (hs : u.state = .wfs) :
    pcmEdge p t false u = ({ u with lastEdge := truncTicks p t }, []) := by
  rw [pcmEdge, if_neg Bool.false_ne_true, if_neg (ne_true_of_eq_false pending), if_pos hs]

theorem pcmEdge_fall_symbol (pending : u.syncPending = false) (hs : u.state ≠ .wfs) :
    pcmEdge p t false u =
      pcmSymbol p (pcmClassify p (ticksSub p t u.lastEdge)) { u with lastEdge := truncTicks p t } := by
  rw [pcmEdge, if_neg Bool.false_ne_true, if_neg (ne_true_of_eq_false pending), if_neg hs]

end

/-- Settles O23. -/
theorem pcmEdgeWithoutSymbol : Obligations.PcmEdgeWithoutSymbol := by
  intro t s
  refine ⟨edgePcm_of_pcmEdge pcmEdge_rise, fun pending => ?_, fun pending hs => ?_⟩
  · refine edgePcm_of_pcmEdge ?_
    rw [pcmEdge_fall_sync pending, pcmSync, noteSync_pcm]
    rfl
  · exact edgePcm_of_pcmEdge (pcmEdge_fall_wfs pending hs)

/-! ### Symbols outside the four that `lastBits` allows (R264) -/

/-- The symbol of an edge is the model's classification of its gap. -/
theorem pcmClassify_pcmGap (s : State) (t : U16) : pcmClassify s.params (pcmGap s t) = symbolAt s t :=
  List.countP_map

theorem pcmEdge_takesSymbol {s : State} (takes : TakesSymbol s) (t : U16) :
    pcmEdge s.params t false s.pcm = pcmSymbol s.params (symbolAt s t) { s.pcm with lastEdge := tickCount s t.toNat } := by
  obtain ⟨pending, hs⟩ := takes
  rw [← pcmClassify_pcmGap]
  exact pcmEdge_fall_symbol pending hs

theorem pcmSymbol_desync {p : Params} {sym : Nat} {u : Pcm} (hs : u.state ≠ .wfs)
    (h : 3 < (pcmBits sym u.lastBits).toNat) : pcmSymbol p sym u = pcmError .pcmDesync u := by
  rw [pcmSymbol, if_pos h, pcmBegin_eq hs]
  rfl

theorem symbolAt_le (s : State) (t : U16) : symbolAt s t ≤ 7 := pcmClassify_pcmGap s t ▸ pcmClassify_le ..

/-- Settles O25. -/
theorem invalidSymbolIsDesync : Obligations.InvalidSymbolIsDesync := by
  intro t s takes invalid
  have desync := (pcmBits_desync_iff _ s.pcm.lastBits (symbolAt_le s t)).mpr invalid
  refine edgePcm_of_pcmEdge ?_
  rw [pcmEdge_takesSymbol takes, pcmSymbol_desync (u := { s.pcm with lastEdge := tickCount s t.toNat }) takes.2 desync,
    pcmError, noteError_pcmDesync]
  rfl

/-! ### The pair a valid symbol recovers (R263, R264) -/

/-- The two bits of a valid symbol, as the register `lastBits` holds them. -/
abbrev pairAt (s : State) (t : U16) : BitVec 2 := BitVec.ofNat 2 (bitsAt s t)

theorem bitsAt_lt {s : State} {t : U16} (valid : ValidSymbol s t) : bitsAt s t < 4 := by
  obtain ⟨-, high⟩ := valid
  rw [bitsAt]
  omega

theorem pairAt_toNat {s : State} {t : U16} (valid : ValidSymbol s t) : (pairAt s t).toNat = bitsAt s t :=
  Nat.mod_eq_of_lt (bitsAt_lt valid)

/-- `pcm` behind the desync test of a valid symbol at `t`: in a frame, with the pair as the last one. -/
abbrev pcmTaking (s : State) (t : U16) : Pcm :=
  { s.pcm with lastEdge := tickCount s t.toNat, state := .rd, lastBits := pairAt s t }

/-- A valid symbol is taken as its pair: as data, check or trailer. -/
theorem edgePcm_of_pcmTake {s : State} {t : U16} (takes : TakesSymbol s) (valid : ValidSymbol s t) {v : Pcm}
    {notes : List Word} (h : pcmTake s.params ((pairAt s t).setWidth 8) (pcmTaking s t) = (v, notes)) :
    EdgePcm false t s v notes := by
  have sent : symbolAt s t = (pairAt s t).toNat + 3 - s.pcm.lastBits.toNat := by
    rw [pairAt_toNat valid, bitsAt]
    obtain ⟨low, -⟩ := valid
    omega
  refine edgePcm_of_pcmEdge ?_
  rw [pcmEdge_takesSymbol takes, sent, ← h]
  exact pcmSymbol_of_pair _ _ (u := { s.pcm with lastEdge := tickCount s t.toNat }) takes.2

/-! ### Data, check and trailer (R263, R265, R266, R268) -/

section

variable {p : Params} {x : BitVec 2} {bits : Byte} {u : Pcm}

/-- A pair shifted in under an accumulator, as a number (R265). -/
theorem toNat_shift_in_pair (acc : Byte) (x : BitVec 2) :
    (acc <<< 2 ||| x.setWidth 8).toNat = (4 * acc.toNat + x.toNat) % 2 ^ 8 := by
  have disjoint : acc <<< 2 &&& x.setWidth 8 = 0 := by
    ext i hi
    interval_cases i <;> simp
  rw [← BitVec.add_eq_or_of_and_eq_zero _ _ disjoint, BitVec.toNat_add, BitVec.toNat_shiftLeft, Nat.shiftLeft_eq,
    BitVec.toNat_setWidth_of_le (by decide)]
  omega

theorem shift_in_pair (acc : Byte) (x : BitVec 2) :
    acc <<< 2 ||| x.setWidth 8 = BitVec.ofNat 8 (4 * acc.toNat + x.toNat) :=
  BitVec.eq_of_toNat_eq (toNat_shift_in_pair acc x)

/-- The two pairs of a trailer, of which the first is in the accumulator (R268). -/
theorem shift_in_trailer_pair (acc : Byte) (x : BitVec 2) :
    (acc <<< 2 ||| x.setWidth 8) &&& 0x0F = BitVec.ofNat 8 (acc.toNat % 4 * 4 + x.toNat) := by
  apply BitVec.eq_of_toNat_eq
  have low : ((0x0F : Byte)).toNat = 2 ^ 4 - 1 := rfl
  rw [BitVec.toNat_and, toNat_shift_in_pair, low, Nat.and_two_pow_sub_one_eq_mod, BitVec.toNat_ofNat]
  have := x.isLt
  omega

/-- A pair is the check pair of a byte exactly when it has its number (R266). -/
theorem eq_pcmChecksum_iff (b : Byte) : x.setWidth 8 = pcmChecksum b ↔ x.toNat = (checkPair b).toNat := by
  rw [pcmChecksum_eq, ← BitVec.toNat_inj, BitVec.toNat_setWidth_of_le (by decide), BitVec.toNat_setWidth_of_le (by decide)]

theorem pcmTake_data (data : u.byteIndex.toNat < p.pcmDataBytes) (hn : u.symInByte.toNat < 4) :
    pcmTake p bits u = ({ u with acc := u.acc <<< 2 ||| bits, symInByte := u.symInByte + 1 }, []) := by
  rw [pcmTake, if_pos data, if_pos hn, pcmData]

theorem pcmTake_check (data : u.byteIndex.toNat < p.pcmDataBytes) (hn : 4 ≤ u.symInByte.toNat) :
    pcmTake p bits u = pcmCheck bits u := by
  rw [pcmTake, if_pos data, if_neg (Nat.not_lt.mpr hn)]

theorem pcmTake_first_trailer (done : p.pcmDataBytes ≤ u.byteIndex.toNat) (hn : u.symInByte = 0) :
    pcmTake p bits u = ({ u with acc := (u.acc <<< 2 ||| bits) &&& 0x0F, symInByte := 1 }, []) := by
  rw [pcmTake, if_neg (Nat.not_lt.mpr done), pcmTrailer, hn]
  rfl

theorem pcmTake_second_trailer (done : p.pcmDataBytes ≤ u.byteIndex.toNat) (hn : u.symInByte = 1) :
    pcmTake p bits u = pcmFinish { u with acc := (u.acc <<< 2 ||| bits) &&& 0x0F, symInByte := 2 } := by
  rw [pcmTake, if_neg (Nat.not_lt.mpr done), pcmTrailer, hn]
  rfl

theorem pcmFinish_eight (h : u.acc = 0x0C) : pcmFinish u = pcmAccept 8 u := if_pos h

theorem pcmFinish_ten (h : u.acc = 0x09) : pcmFinish u = pcmAccept 10 (pcmRelocate u) := by
  rw [pcmFinish, if_neg (by rw [h]; decide), if_pos h]

theorem pcmFinish_other (hC : u.acc ≠ 0x0C) (h9 : u.acc ≠ 0x09) : pcmFinish u = pcmError .pcmTrailer u := by
  rw [pcmFinish, if_neg hC, if_neg h9]

end

/-- Settles O26. -/
theorem dataSymbolShiftsTwoBits : Obligations.DataSymbolShiftsTwoBits := by
  intro t s takes valid data hn
  refine edgePcm_of_pcmTake takes valid ?_
  rw [pcmTake_data (u := pcmTaking s t) data hn, shift_in_pair, pairAt_toNat valid]

/-- Settles O27, by the two cases of `pcm_check`: the bank is the old one with one write, at the byte index. -/
theorem checkSymbolGuardsTheByte : Obligations.CheckSymbolGuardsTheByte := by
  intro t s takes valid data hn
  have check := pcmTake_check (p := s.params) (bits := (pairAt s t).setWidth 8) (u := pcmTaking s t) data hn
  have passes : (pairAt s t).setWidth 8 = pcmChecksum s.pcm.acc ↔ bitsAt s t = (checkPair s.pcm.acc).toNat := by
    rw [eq_pcmChecksum_iff, pairAt_toNat valid]
  rw [pcmCheck] at check
  refine ⟨fun right hp sized => ?_, fun wrong => ?_⟩
  · rw [if_pos (passes.mpr right)] at check
    refine ⟨_, ⟨Banks.read_write_same _ _ _ _ ?_, fun _ _ => Banks.read_write_other _ _ _ _ _ _⟩,
      edgePcm_of_pcmTake takes valid check⟩
    rw [sized.side_length]
    exact data.trans_le hp.pcmDataBytes_le
  · rw [if_neg (mt passes.mp wrong), pcmError, noteError_pcmChecksum] at check
    exact edgePcm_of_pcmTake takes valid check

/-! ### The end of a frame (R268 to R274) -/

/-- The second trailer symbol ends the frame, with the four bits of the trailer in the accumulator. -/
theorem edgePcm_of_pcmFinish {s : State} {t : U16} (takes : TakesSymbol s) (valid : ValidSymbol s t)
    (done : s.params.pcmDataBytes ≤ s.pcm.byteIndex.toNat) (hn : s.pcm.symInByte = 1) {v : Pcm} {notes : List Word}
    (h : pcmFinish { pcmTaking s t with acc := BitVec.ofNat 8 (s.pcm.acc.toNat % 4 * 4 + bitsAt s t), symInByte := 2 } =
      (v, notes)) : EdgePcm false t s v notes := by
  refine edgePcm_of_pcmTake takes valid ?_
  rw [pcmTake_second_trailer (u := pcmTaking s t) done hn, shift_in_trailer_pair, pairAt_toNat valid, h]

/-- Settles O28, by the cases of `pcm_finish`. -/
theorem trailerEndsThePcmFrame : Obligations.TrailerEndsThePcmFrame := by
  intro t s takes valid done
  refine ⟨fun hn => ?_, fun hn hC => ?_, fun hn h9 => ?_, fun hn hC h9 => ?_⟩
  · refine edgePcm_of_pcmTake takes valid ?_
    rw [pcmTake_first_trailer (u := pcmTaking s t) done hn, shift_in_trailer_pair, pairAt_toNat valid]
  · refine edgePcm_of_pcmFinish takes valid done hn ((pcmFinish_eight (congrArg (BitVec.ofNat 8) hC)).trans ?_)
    rw [pcmAccept, noteFrame_pcm_eight]
    rfl
  · refine edgePcm_of_pcmFinish takes valid done hn ((pcmFinish_ten (congrArg (BitVec.ofNat 8) h9)).trans ?_)
    rw [pcmAccept, noteFrame_pcm_ten]
    rfl
  · have other (v : Byte) (h : s.pcm.acc.toNat % 4 * 4 + bitsAt s t ≠ v.toNat) :
        BitVec.ofNat 8 (s.pcm.acc.toNat % 4 * 4 + bitsAt s t) ≠ v := by
      have pair := bitsAt_lt valid
      bv_omega
    refine edgePcm_of_pcmFinish takes valid done hn ((pcmFinish_other (other 0x0C hC) (other 0x09 h9)).trans ?_)
    rw [pcmError, noteError_pcmTrailer]
    rfl

/-- Settles O29: the published bank is the one relocation leaves. -/
theorem extendedFrameRelocates : Obligations.ExtendedFrameRelocates := by
  intro t s hp sized takes valid done hn h9
  obtain ⟨-, -, ten, -⟩ := trailerEndsThePcmFrame t s takes valid done
  have slot := pcmRelocate_bank_read s.pcm _ sized hp.pcmBankSize_ge
  refine ⟨_, ten hn h9, by simp [slot], by simp [slot], by simp [slot], by simp [slot], fun b i kept => ?_⟩
  by_cases hb : b = s.pcm.sel
  · have outside : i < 6 ∨ 10 ≤ i := kept.resolve_left (not_not_intro hb)
    rw [slot, if_pos hb, if_neg, if_neg, if_neg, if_neg] <;> omega
  · rw [slot, if_neg hb]

end Machine

end Sys2Proof
end

section
/-! PROOFS. The CRC of the SRXL decoder (O37, O38): no shift of the register loses anything, so registers that differ stay
different behind the same bytes, and a register with enough zeros on top is shifted without the polynomial. -/

namespace Sys2Proof.Machine

/-! ### The register, bit by bit (R310) -/

/-- The polynomial is odd, so the bit shifted out on top comes back at the bottom. -/
theorem crcShift_getLsbD_zero (c : U16) : (crcShift c).getLsbD 0 = c.msb := by
  cases h : c.msb <;> simp [crcShift, h]

theorem crcShift_getLsbD_succ (c : U16) {i : Nat} (hi : i < 15) :
    (crcShift c).getLsbD (i + 1) = (c.getLsbD i ^^ (c.msb && (0x1021 : U16).getLsbD (i + 1))) := by
  have inside : i + 1 < 16 := Nat.succ_lt_succ hi
  cases h : c.msb <;> simp [crcShift, h, inside, BitVec.getLsbD_eq_getElem (Nat.lt_succ_of_lt hi)]

/-- The bottom bit says whether the polynomial was added, so the register before a shift is known from the one after it. -/
theorem crcShift_injective : Function.Injective crcShift := by
  intro c c' h
  have top : c.msb = c'.msb := by rw [← crcShift_getLsbD_zero, h, crcShift_getLsbD_zero]
  apply BitVec.eq_of_getLsbD_eq
  intro i hi
  rcases Nat.lt_succ_iff_lt_or_eq.mp hi with below | rfl
  · have next := congrArg (·.getLsbD (i + 1)) h
    simp only [crcShift_getLsbD_succ _ below, top] at next
    exact Bool.xor_left_inj.mp next
  · exact top

theorem crcShifts_injective (n : Nat) : Function.Injective (crcShifts n) := by
  induction n with
  | zero => exact Function.injective_id
  | succ n ih => exact ih.comp crcShift_injective

/-- As long as only zeros leave the register, the polynomial is not added. -/
theorem crcShifts_of_toNat_lt {n : Nat} {c : U16} (h : c.toNat * 2 ^ n < 2 ^ 16) : crcShifts n c = c <<< n := by
  induction n generalizing c with
  | zero => simp [crcShifts]
  | succ n ih =>
    rw [pow_succ', ← mul_assoc] at h
    have double : c.toNat * 2 < 2 ^ 16 := (Nat.le_mul_of_pos_right _ (Nat.two_pow_pos n)).trans_lt h
    have shifted : (c <<< 1).toNat = c.toNat * 2 := by
      rw [BitVec.toNat_shiftLeft, Nat.shiftLeft_eq, pow_one, Nat.mod_eq_of_lt double]
    have top : c.msb = false := BitVec.msb_eq_false_iff_two_mul_lt.mpr (by omega)
    rw [crcShifts, crcShift, top, if_neg Bool.false_ne_true, ih (by rwa [shifted]), ← BitVec.shiftLeft_add, Nat.add_comm]

/-! ### Bytes -/

/-- Different registers stay different behind the same byte. -/
theorem crcByte_injective_left (b : Byte) : Function.Injective (crcByte · b) := by
  intro c c' h
  exact (BitVec.xor_left_inj _).mp (crcShifts_injective 8 h)

/-- Different bytes take a register to different ones. -/
theorem crcByte_injective_right (c : U16) : Function.Injective (crcByte c) := by
  intro b b' h
  have placed : b.setWidth 16 <<< 8 = b'.setWidth 16 <<< 8 := (BitVec.xor_right_inj _).mp (crcShifts_injective 8 h)
  apply BitVec.eq_of_getLsbD_eq
  intro i hi
  have bit := congrArg (·.getLsbD (8 + i)) placed
  simpa [hi, show 8 + i < 16 by omega, show i < 16 by omega] using bit

theorem foldl_crcByte_injective (bytes : List Byte) : Function.Injective (bytes.foldl crcByte) := by
  induction bytes with
  | nil => exact Function.injective_id
  | cons b bytes ih => exact ih.comp (crcByte_injective_left b)

theorem crc16_append (before behind : List Byte) : crc16 (before ++ behind) = behind.foldl crcByte (crc16 before) :=
  List.foldl_append

/-- Settles O37: the two registers differ behind the byte, and the bytes behind it keep them different. -/
theorem crcDetectsOneByteErrors : Obligations.CrcDetectsOneByteErrors := by
  intro before behind b b' hne h
  simp only [crc16_append, List.foldl_cons] at h
  exact hne (crcByte_injective_right _ (foldl_crcByte_injective behind h))

/-! ### A message with its own CRC -/

/-- The high byte of the register cancels itself. -/
theorem xor_highByte (c : U16) : c ^^^ (c.extractLsb' 8 8).setWidth 16 <<< 8 = (c.extractLsb' 0 8).setWidth 16 := by
  apply BitVec.eq_of_getLsbD_eq
  intro i hi
  by_cases low : i < 8
  · simp [hi, low]
  · simp [hi, low, show i - 8 < 8 by omega, show 8 + (i - 8) = i by omega]

/-- The high byte of the register moves its low byte to the top, without adding the polynomial. -/
theorem crcByte_highByte (c : U16) : crcByte c (c.extractLsb' 8 8) = (c.extractLsb' 0 8).setWidth 16 <<< 8 := by
  have small : ((c.extractLsb' 0 8).setWidth 16).toNat * 2 ^ 8 < 2 ^ 16 := by
    rw [BitVec.toNat_setWidth_of_le (by decide)]
    have := (c.extractLsb' 0 8).isLt
    omega
  rw [crcByte, xor_highByte, crcShifts_of_toNat_lt small]

/-- A byte that is all the register holds, on top, clears it. -/
theorem crcByte_self (b : Byte) : crcByte (b.setWidth 16 <<< 8) b = 0 := by
  rw [crcByte, BitVec.xor_self]
  rfl

/-- Settles O38: the high byte moves the low byte to the top, and the low byte clears it there. -/
theorem crcOfMessageWithCrcIsZero : Obligations.CrcOfMessageWithCrcIsZero := by
  intro bytes
  rw [crc16_append, List.foldl_cons, List.foldl_cons, List.foldl_nil, crcByte_highByte, crcByte_self]

end Sys2Proof.Machine
end

section
/-! PROOFS. The SRXL decoder, one byte and one alarm at a time (O31 to O35): an equation for each state and each kind of byte,
and what the procedures of the unit say of UART_BYTE and ALARM_SRXL. -/

namespace Sys2Proof.Machine

open Claims (ReplacesOne byteRearmed)

/-! ### The words the decoder emits (R148) -/

theorem noteSync_srxl : noteSync .srxl = 0x13000000 := by decide

theorem noteFrame_srxl_twelve : noteFrame .srxl ((12 : BitVec 5).setWidth 16) = 0x2300000C := by decide

theorem noteFrame_srxl_sixteen : noteFrame .srxl ((16 : BitVec 5).setWidth 16) = 0x23000010 := by decide

theorem noteError_srxlHeader : noteError (some .srxl) .srxlHeader = 0x33200000 := by decide

theorem noteError_srxlCrc : noteError (some .srxl) .srxlCrc = 0x33210000 := by decide

theorem noteError_srxlSyncLost : noteError (some .srxl) .srxlSyncLost = 0x33220000 := by decide

/-! ### Bytes (R303 to R311) -/

/-- A write inside a bank replaces its one entry (R101). -/
theorem Banks.write_replacesOne {α : Type} {bk : Banks α} {b : Bool} {i : Nat} (h : i < (bk.side b).length) (v : α) :
    ReplacesOne bk (bk.write b i v) b i v :=
  ⟨Banks.read_write_same _ _ _ _ h, fun _ _ => Banks.read_write_other _ _ _ _ _ _⟩

section

variable {p : Params} {d : Byte} {t : U16} {u : Srxl}

theorem srxlByte_wfs (hs : u.state = .wfs) : srxlByte p d t u = .ok (srxlRearm p t u, []) := by
  rw [srxlByte, hs]

theorem srxlByte_sd (hs : u.state = .sd) : srxlByte p d t u = .ok (srxlHeader d (srxlRearm p t u)) := by
  rw [srxlByte, hs]

theorem srxlByte_rd (hs : u.state = .rd) : srxlByte p d t u = srxlStore d (srxlRearm p t u) := by
  rw [srxlByte, hs]

theorem srxlHeader_of_length {n : BitVec 6} (length : srxlFrameLength d = some n) :
    srxlHeader d u = ({ u with expected := n, bank := u.bank.write u.sel 0 d, byteIndex := 1, state := .rd }, []) := by
  rw [srxlHeader, length]

theorem srxlHeader_other (h1 : d ≠ 0xA1) (h2 : d ≠ 0xA2) : srxlHeader d u = srxlError .srxlHeader u := by
  rw [srxlHeader, srxlFrameLength, if_neg h1, if_neg h2]

/-- A byte of a frame that is not the last one is only stored (R306). -/
theorem srxlStore_more (room : u.byteIndex.toNat < (u.bank.side u.sel).length) (more : u.byteIndex + 1 ≠ u.expected) :
    srxlStore d u = .ok ({ u with bank := u.bank.write u.sel u.byteIndex.toNat d, byteIndex := u.byteIndex + 1 }, []) := by
  rw [srxlStore, if_pos room, if_neg more]

/-- The last byte of a frame is stored and the CRC checked, with `message` and `hi` in front of it (R306, R311). -/
theorem srxlByte_checks (hp : p.Admitted) {u₀ : Srxl} {n : BitVec 6} (hn : n.toNat ≤ 35) {message : List Byte} {hi : Byte}
    (h : SrxlCollected p u₀ n (message ++ [hi]) u) (whole : message.length + 2 = n.toNat) :
    srxlByte p d t u =
      .ok (if crc16 message = hi ++ d then srxlAccept (srxlChannels n) (u.storing p d t)
        else srxlError .srxlCrc (u.storing p d t)) := by
  have length : (message ++ [hi]).length = message.length + 1 := List.length_append
  have h35 : (message ++ [hi]).length < 35 := by omega
  have all := h.storing hp h35 d t
  rw [List.append_assoc] at all
  rw [srxlByte_frame hp h h35, if_pos (by omega), all.check whole]

/-- A decoder in RD has collected the bytes below its byte index, which `hi` is the last of. -/
theorem srxlCollected_of_read (sized : u.bank.Sized p.srxlBankSize) (hs : u.state = .rd) {k : Nat}
    (index : u.byteIndex.toNat = k + 1) {hi : Byte} (read : u.bank.read u.sel k = some hi) :
    SrxlCollected p u u.expected ((u.bank.side u.sel).take k ++ [hi]) u := by
  have front : (u.bank.side u.sel).take k ++ [hi] = (u.bank.side u.sel).take (k + 1) := by
    rw [List.take_add_one, show (u.bank.side u.sel)[k]? = some hi from read, Option.toList_some]
  have room : k < (u.bank.side u.sel).length := (Banks.read_eq_some_iff ..).mp ⟨hi, read⟩
  rw [front]
  exact
    { state := hs, expected := rfl, byteIndex := by rw [index, List.length_take, Nat.min_eq_left room], sized := sized,
      stored := List.take_prefix .., sel := rfl, count := rfl, newData := rfl, receiving := rfl, timeout := rfl }

end

/-! ### UART_BYTE on the whole state (R300) -/

/-- Settles O31. -/
theorem byteWithoutSyncIsDropped : Obligations.ByteWithoutSyncIsDropped := by
  intro d t s hs
  exact exec_uartByte_silent (s := s) (srxlByte_wfs hs)

/-- Settles O32: a frame length in the header, or an error. -/
theorem headerFixesFrameLength : Obligations.HeaderFixesFrameLength := by
  intro d t s hs
  have byte := srxlByte_sd (p := s.params) (d := d) (t := t) hs
  refine ⟨fun hp sized n hd => ?_, fun h1 h2 => ?_⟩
  · have length : srxlFrameLength d = some n := by
      rcases hd with ⟨rfl, rfl⟩ | ⟨rfl, rfl⟩ <;> rfl
    have room : 0 < (s.srxl.bank.side s.srxl.sel).length := by
      rw [sized.side_length]
      exact Nat.lt_of_lt_of_le (by decide) hp.srxlBankSize_ge
    rw [srxlHeader_of_length length] at byte
    exact ⟨_, Banks.write_replacesOne room d, exec_uartByte_silent (s := s) byte⟩
  · rw [srxlHeader_other h1 h2, srxlError, noteError_srxlHeader] at byte
    exact exec_uartByte byte

/-- Settles O33: the bank is the old one with one write, at the byte index. -/
theorem frameByteIsStored : Obligations.FrameByteIsStored := by
  intro d t s hs sized index more
  have room : s.srxl.byteIndex.toNat < (s.srxl.bank.side s.srxl.sel).length := by rwa [sized.side_length]
  have byte := (srxlByte_rd (p := s.params) (d := d) (t := t) hs).trans
    (srxlStore_more (u := srxlRearm s.params t s.srxl) room more)
  exact ⟨_, Banks.write_replacesOne room d, exec_uartByte_silent (s := s) byte⟩

/-- Settles O34, by the check of the bytes collected so far and the last one. -/
theorem lastByteChecksTheCrc : Obligations.LastByteChecksTheCrc := by
  intro d hi t s len hp sized hs hlen expected index read
  have bounds : 27 ≤ len ∧ len ≤ 35 := by omega
  have whole : s.srxl.expected.toNat = len := by
    rw [expected, BitVec.toNat_ofNat]
    omega
  have last : s.srxl.byteIndex.toNat = len - 2 + 1 := by
    rw [index, BitVec.toNat_ofNat]
    omega
  have room : len - 1 < (s.srxl.bank.side s.srxl.sel).length := by
    rw [sized.side_length]
    have := hp.srxlBankSize_ge
    omega
  have collected := srxlCollected_of_read sized hs last read
  have written : s.srxl.storing s.params d t =
      { byteRearmed s t with
        bank := s.srxl.bank.write s.srxl.sel (len - 1) d, byteIndex := s.srxl.byteIndex + 1 } := by
    rw [Srxl.storing, last, show len - 2 + 1 = len - 1 by omega]
    rfl
  have byte := srxlByte_checks (d := d) (t := t) hp (by omega) collected
    (by rw [List.length_take, Nat.min_eq_left (by omega)]; omega)
  rw [written, expected] at byte
  refine ⟨_, Banks.write_replacesOne room d, fun right => ?_, fun wrong => ?_⟩
  · rw [if_pos right] at byte
    rw [exec_uartByte byte]
    rcases hlen with rfl | rfl
    · rw [if_pos rfl, if_pos rfl, ← noteFrame_srxl_twelve]
      rfl
    · rw [if_neg (by decide), if_neg (by decide), ← noteFrame_srxl_sixteen]
      rfl
  · rw [if_neg wrong, srxlError, noteError_srxlCrc] at byte
    exact exec_uartByte byte

/-! ### ALARM_SRXL on the whole state (R301, R307) -/

/-- ALARM_SRXL writes what `srxl_alarm` answers, and nothing else. -/
theorem exec_alarmSrxl {s : State} {u : Srxl} {notes : List Word} (h : srxlAlarm s.srxl = (u, notes)) :
    exec .alarmSrxl s = .next { s with srxl := u, notifications := s.notifications ++ notes } :=
  congrArg (fun r => Host.Outcome.next (s.takeSrxl r)) h

/-- Settles O35, by the cases of `srxl_alarm`. -/
theorem alarmSrxlFiresOnce : Obligations.AlarmSrxlFiresOnce := by
  intro s
  rcases srxlAlarm_cases s.srxl with ⟨unarmed, e⟩ | ⟨armed, ⟨hs, e⟩ | ⟨hs, e⟩ | ⟨hs, e⟩⟩
  · simp [unarmed, exec_alarmSrxl e]
  · simp [armed, hs, exec_alarmSrxl e, noteSync_srxl]
  · simp [armed, hs, exec_alarmSrxl e]
  · simp [armed, hs, exec_alarmSrxl e, noteSync_srxl, noteError_srxlSyncLost]

end Sys2Proof.Machine
end

section
/-! PROOFS. The aggregator and the decoder flags (O39 to O44): what UPDATE selects, what each read answers (by the answers of
the six reads), and what CLEAR_NEW_DATA clears. -/

namespace Sys2Proof.Machine

open Claims (outputOf)

/-! ### Answers with the status OK (R146) -/

/-- A register no wider than the value field is answered as it is. -/
theorem responseWord_ok_setWidth {n : Nat} (h : n ≤ 16) (v : BitVec n) : responseWord .ok (v.setWidth 16) = v.setWidth 32 := by
  rw [responseWord_ok, BitVec.setWidth_setWidth (by omega)]

/-- A number that fits the value field is answered as it is. -/
theorem responseWord_ok_ofNat {v : Nat} (h : v < 2 ^ 16) : responseWord .ok (BitVec.ofNat 16 v) = BitVec.ofNat 32 v := by
  rw [responseWord_ok, BitVec.setWidth_ofNat_of_le_of_lt (by decide) h]

/-- A read that does not fault puts its words on the response port, and changes nothing else. -/
theorem AnswersOnly.exec_of_ok {i : Instr} {answer : State → Except Fault (List Word)} (h : AnswersOnly i answer) {s : State}
    {words : List Word} (ok : answer s = .ok words) : exec i s = .next { s with responses := s.responses ++ words } := by
  rw [h.exec_eq, ok]
  rfl

/-! ### Source selection (R350, R356, R357) -/

/-- Each decoder has its bit of the receiving flags (R350). -/
theorem State.receivingFlags_bits (s : State) :
    s.receivingFlags.getLsbD 0 = s.ppm.receiving ∧ s.receivingFlags.getLsbD 1 = s.pcm.receiving ∧
    s.receivingFlags.getLsbD 2 = s.srxl.receiving := by
  unfold State.receivingFlags
  generalize s.ppm.receiving = ppm, s.pcm.receiving = pcm, s.srxl.receiving = srxl
  revert ppm pcm srxl
  decide

/-- A flag rose where it is set now and was not before. -/
theorem getLsbD_risen (now prev : BitVec 3) {k : Nat} (h : k < 3) :
    (now &&& ~~~prev).getLsbD k = (now.getLsbD k && !prev.getLsbD k) := by
  simp [h]

theorem exists_flag_of_ne_zero : ∀ {flags : BitVec 3}, flags ≠ 0 →
    flags.getLsbD 0 = true ∨ flags.getLsbD 1 = true ∨ flags.getLsbD 2 = true := by
  decide

/-- Fixed priority among the flags of one set, and another choice where none is set. -/
theorem aggSelectFixed_or_else (flags : BitVec 3) (otherwise : Source) :
    (if flags ≠ 0 then aggSelectFixed flags else otherwise) =
      if flags.getLsbD 0 then .ppm else if flags.getLsbD 1 then .pcm else if flags.getLsbD 2 then .srxl else otherwise := by
  by_cases unset : flags = 0
  · simp [unset]
  · rw [if_pos unset, aggSelectFixed]
    rcases exists_flag_of_ne_zero unset with h | h | h <;> simp [h]

/-- The current source while it receives, and another choice otherwise (R357). -/
theorem sourceReceives_or_else (now : BitVec 3) (current otherwise : Source) :
    (if sourceReceives now current then current else otherwise) =
      if current = .ppm ∧ now.getLsbD 0 = true then .ppm
      else if current = .pcm ∧ now.getLsbD 1 = true then .pcm
      else if current = .srxl ∧ now.getLsbD 2 = true then .srxl
      else otherwise := by
  cases current <;> simp [sourceReceives]

/-- UPDATE holds the source it selects and the receiving flags, and responds with the source (R350). -/
theorem exec_update {s : State} {src : Source} (selected : aggSelect s.params s.receivingFlags s.agg = src) :
    exec .update s =
      .next { s with agg := ⟨src, s.receivingFlags⟩, responses := s.responses ++ [src.code.setWidth 32] } := by
  rw [← selected, ← responseWord_ok_setWidth (by decide)]
  rfl

/-- Settles O39. -/
theorem updateSelectsByFixedPriority : Obligations.UpdateSelectsByFixedPriority := by
  rintro s fixed src rfl
  refine exec_update ?_
  simp only [aggSelect, fixed, aggSelectFixed, s.receivingFlags_bits]

/-- Settles O40: the flags that rose, then the current source, then fixed priority. -/
theorem updateSelectsLastReceiving : Obligations.UpdateSelectsLastReceiving := by
  rintro s last src rfl
  refine exec_update ?_
  simp only [aggSelect, last, aggSelectLast, aggSelectFixed_or_else, sourceReceives_or_else]
  simp only [aggSelectFixed, getLsbD_risen, Nat.reduceLT, s.receivingFlags_bits]

/-! ### GET_SOURCE and GET_COUNT (R351, R352, R358) -/

/-- GET_COUNT responds with the count register `c` of the selected decoder. -/
theorem exec_getCount {s : State} {n : Nat} {c : BitVec n} (count : aggCount s = c.toNat) (h : n ≤ 16) :
    exec .getCount s = .next { s with responses := s.responses ++ [c.setWidth 32] } := by
  rw [getCount_answersOnly.exec_of_ok rfl, count, BitVec.ofNat_toNat, responseWord_ok_setWidth h]

/-- Settles O41. -/
theorem getSourceAndCountRespond : Obligations.GetSourceAndCountRespond := by
  intro s
  refine ⟨?_, fun source => ?_, fun source => ?_, fun source => ?_, fun source => ?_⟩
  · rw [getSource_answersOnly.exec_of_ok rfl, responseWord_ok_setWidth (by decide)]
  · exact exec_getCount (c := 0#4) (by rw [aggCount, source]; rfl) (by decide)
  · exact exec_getCount (by rw [aggCount, source]) (by decide)
  · exact exec_getCount (by rw [aggCount, source]) (by decide)
  · exact exec_getCount (by rw [aggCount, source]) (by decide)

/-! ### GET_INPUT (R353, R362) -/

theorem aggInputUs_ppm {s : State} {i : Nat} {w : U16} (source : s.agg.source = .ppm)
    (read : s.ppm.bank.read (!s.ppm.sel) i = some w) :
    aggInputUs s i = .ok (2 * (w.toNat / s.params.ticksPerUs) * s.cfg.clockCorrection.toNat / 65536) := by
  rw [aggInputUs, source]
  simp only [(Banks.readOrFault_eq_ok_iff ..).mpr read]
  rfl

theorem aggInputUs_pcm {s : State} {i : Nat} {v : Byte} (source : s.agg.source = .pcm)
    (read : s.pcm.bank.read (!s.pcm.sel) i = some v) : aggInputUs s i = .ok (1050 + 138 * v.toNat / 32) := by
  rw [aggInputUs, source]
  simp only [(Banks.readOrFault_eq_ok_iff ..).mpr read]
  rfl

/-- A field appended below a number multiplies it by the size of the field and adds. -/
theorem toNat_append_eq_add {m n : Nat} (x : BitVec m) (y : BitVec n) : (x ++ y).toNat = x.toNat * 2 ^ n + y.toNat := by
  rw [BitVec.toNat_append, ← Nat.shiftLeft_add_eq_or_of_lt y.isLt, Nat.shiftLeft_eq]

/-- The low 12 bits of a big-endian pair (R102). -/
theorem toNat_low12 (hi lo : Byte) : (hi.extractLsb' 0 4 ++ lo).toNat = hi.toNat % 16 * 256 + lo.toNat := by
  rw [toNat_append_eq_add, BitVec.extractLsb'_toNat]
  rfl

theorem aggInputUs_srxl {s : State} {i : Nat} {hi lo : Byte} (source : s.agg.source = .srxl)
    (readHi : s.srxl.bank.read (!s.srxl.sel) (1 + 2 * i) = some hi)
    (readLo : s.srxl.bank.read (!s.srxl.sel) (2 + 2 * i) = some lo) :
    aggInputUs s i = .ok (800 + (hi.toNat % 16 * 256 + lo.toNat) * 1400 / 4096) := by
  rw [aggInputUs, source, ← toNat_low12]
  simp only [srxlRaw, (Banks.readOrFault_eq_ok_iff ..).mpr readHi, (Banks.readOrFault_eq_ok_iff ..).mpr readLo]
  rfl

theorem exec_getInput_range {s : State} {i : Byte} (h : s.agg.source = .none ∨ aggCount s ≤ i.toNat) :
    exec (.getInput i) s = .next { s with responses := s.responses ++ [0x02000000] } :=
  (getInput_answersOnly i).exec_of_ok (if_pos h)

theorem exec_getInput_ok {s : State} {i : Byte} {us : Nat} (source : s.agg.source ≠ .none) (count : i.toNat < aggCount s)
    (width : aggInputUs s i.toNat = .ok us) :
    exec (.getInput i) s = .next { s with responses := s.responses ++ [BitVec.ofNat 32 (min us 0xFFFF)] } := by
  rw [← responseWord_ok_ofNat (show min us 0xFFFF < 2 ^ 16 by omega)]
  refine (getInput_answersOnly i).exec_of_ok ((if_neg (not_or.mpr ⟨source, by rwa [Nat.not_le]⟩)).trans ?_)
  rw [indexOperand, width]
  rfl

/-- Settles O42. The widths of PCM and SRXL do not reach the saturation at 0xFFFF. -/
theorem getInputRespondsMicroseconds : Obligations.GetInputRespondsMicroseconds := by
  intro i s
  have range {n : Nat} (count : aggCount s = n) (h : n ≤ i.toNat) := exec_getInput_range (.inr (count.trans_le h))
  have ok {n us : Nat} (source : s.agg.source ≠ .none) (count : aggCount s = n) (h : i.toNat < n) :=
    exec_getInput_ok (us := us) source (count ▸ h)
  refine ⟨fun source => exec_getInput_range (.inl source), fun source => ?_, fun source => ?_, fun source => ?_⟩
  · have count : aggCount s = s.ppm.count.toNat := by rw [aggCount, source]
    exact ⟨range count, fun w below read => ok (by simp [source]) count below (aggInputUs_ppm source read)⟩
  · have count : aggCount s = s.pcm.count.toNat := by rw [aggCount, source]
    refine ⟨range count, fun v below read => ?_⟩
    rw [ok (by simp [source]) count below (aggInputUs_pcm source read), Nat.min_eq_left (by omega)]
  · have count : aggCount s = s.srxl.count.toNat := by rw [aggCount, source]
    refine ⟨range count, fun hi lo below readHi readLo => ?_⟩
    rw [ok (by simp [source]) count below (aggInputUs_srxl source readHi readLo), Nat.min_eq_left (by omega)]

/-! ### GET_OUTPUT (R354, R360) -/

theorem aggOutput_neutral {s : State} {o : Nat} {m : Byte} (mapping : s.cfg.mapping[o]? = some m)
    (h : m = 0 ∨ s.agg.source = .none ∨ aggCount s ≤ m.toNat - 1) : aggOutput s o = .ok neutralOutput := by
  simp only [aggOutput, mapping, if_pos h]

theorem aggOutput_scaled {s : State} {o pw : Nat} {m : Byte} (mapping : s.cfg.mapping[o]? = some m)
    (h : ¬ (m = 0 ∨ s.agg.source = .none ∨ aggCount s ≤ m.toNat - 1)) (divides : s.cfg.pulseWidthRange ≠ 0)
    (width : aggInputUs s (m.toNat - 1) = .ok pw) :
    aggOutput s o =
      .ok (scaleOutput pw s.cfg.pulseWidthCenter.toNat s.cfg.pulseWidthRange.toNat (s.cfg.invertMask.getLsbD o)) := by
  simp only [aggOutput, mapping, if_neg h, if_neg divides, width]
  rfl

/-- The output byte, widened to a port word, is the saturated number of R360. -/
theorem scaleOutput_setWidth (pw center range : Nat) (inverted : Bool) :
    (scaleOutput pw center range inverted).setWidth 32 = BitVec.ofNat 32 (outputOf pw center range inverted) := by
  refine BitVec.setWidth_ofNat_of_le_of_lt (by decide) ?_
  omega

theorem exec_getOutput_ok {s : State} {o : Byte} {v : Byte} (h : o.toNat < s.params.maxOutputChannels)
    (value : aggOutput s o.toNat = .ok v) :
    exec (.getOutput o) s = .next { s with responses := s.responses ++ [v.setWidth 32] } := by
  rw [← responseWord_ok_setWidth (by decide)]
  refine (getOutput_answersOnly o).exec_of_ok ((if_neg (by rwa [indexOperand, Nat.not_le])).trans ?_)
  rw [indexOperand, value]
  rfl

/-- Settles O43. -/
theorem getOutputRespondsScaledValue : Obligations.GetOutputRespondsScaledValue := by
  intro o s
  refine ⟨fun beyond => ?_, fun m inside mapping => ⟨fun neutral => ?_, fun pw mapped source count divides width => ?_⟩⟩
  · exact (getOutput_answersOnly o).exec_of_ok (if_pos beyond)
  · exact exec_getOutput_ok inside (aggOutput_neutral mapping neutral)
  · have live : ¬ (m = 0 ∨ s.agg.source = .none ∨ aggCount s ≤ m.toNat - 1) :=
      not_or.mpr ⟨mapped, not_or.mpr ⟨source, by rwa [Nat.not_le]⟩⟩
    rw [exec_getOutput_ok inside (aggOutput_scaled mapping live divides width), scaleOutput_setWidth]

/-! ### GET_DECODER_STATUS and CLEAR_NEW_DATA (R371, R372) -/

theorem statusValue_toNat (count : BitVec 8) (newData receiving : Bool) (st : DecoderState) :
    (statusValue count newData receiving st).toNat =
      count.toNat * 256 + newData.toNat * 8 + receiving.toNat * 4 + st.code.toNat := by
  simp only [statusValue, toNat_append_eq_add, BitVec.toNat_ofBool, BitVec.toNat_ofNat]
  omega

/-- The status word of a decoder whose count has `n` bits (R371). -/
theorem responseWord_statusValue {n : Nat} (h : n ≤ 8) (count : BitVec n) (newData receiving : Bool) (st : DecoderState) :
    responseWord .ok (statusValue (count.setWidth 8) newData receiving st) =
      BitVec.ofNat 32 (count.toNat * 256 + newData.toNat * 8 + receiving.toNat * 4 + st.code.toNat) := by
  rw [responseWord_ok, ← BitVec.ofNat_toNat, statusValue_toNat, BitVec.toNat_setWidth_of_le h]

/-- GET_DECODER_STATUS of `k = 1, 2, 3` responds with the status of that decoder (R371). -/
theorem exec_getDecoderStatus {k : BitVec 2} {d : DecoderId} (operand : decoderOperand k = some d) (s : State) :
    exec (.getDecoderStatus k) s = .next { s with responses := s.responses ++ [responseWord .ok (s.decoderStatus d)] } :=
  (getDecoderStatus_answersOnly k).exec_of_ok (by rw [operand]; rfl)

/-- Settles O44. -/
theorem decoderStatusAndClear : Obligations.DecoderStatusAndClear := by
  intro s
  refine ⟨rfl, rfl, ?_, rfl, rfl, rfl⟩
  rintro k count newData receiving st (⟨rfl, rfl, rfl, rfl, rfl⟩ | ⟨rfl, rfl, rfl, rfl, rfl⟩ | ⟨rfl, rfl, rfl, rfl, rfl⟩)
  · rw [exec_getDecoderStatus (d := .ppm) rfl, State.decoderStatus, responseWord_statusValue (by decide)]
  · rw [exec_getDecoderStatus (d := .pcm) rfl, State.decoderStatus, responseWord_statusValue (by decide)]
  · rw [exec_getDecoderStatus (d := .srxl) rfl, State.decoderStatus, responseWord_statusValue (by decide)]

end Sys2Proof.Machine
end

section
/-! PROOFS. The configuration: the states a run starts from satisfy the invariant (O12, O13), what each configuration word
answers (O46 to O48), what the validation reads of an image (O49), the round trip through the block and its store (O50), and
the only ways into `cfg` (O51, by the list of what each instruction can leave there). -/

namespace Sys2Proof.Machine

/-! ### The states a run starts from (R550) -/

/-- Settles O13: each unit by its reset values, `cfg` by the legality of the defaults (R404). -/
theorem powerOnSatisfiesInvariant : Obligations.PowerOnSatisfiesInvariant := fun _ hp =>
  { admitted := hp
    legal := cfgDefaults_legal hp
    ppm := .reset hp
    pcm := .reset hp
    srxl := .reset hp
    inp := .idle 0 }

/-- The parameter values R10 shows are admitted. -/
theorem default_admitted : Params.default.Admitted := by decide

/-- Settles O12: the reset state is a power-on state. -/
theorem resetStateSatisfiesInvariant : Obligations.ResetStateSatisfiesInvariant :=
  powerOnSatisfiesInvariant Params.default default_admitted

/-! ### What the configuration words answer (R410 to R414) -/

section

variable {s : State} {payload r : List Byte}

/-- The defaults are applied as they are: applying their image reads them back from it (R104, R402). -/
theorem cfgApplyDefaults_eq (s : State) : cfgApplyDefaults s = s.withCfg (cfgDefaults s.params) := by
  rw [cfgApplyDefaults, cfgApply, decodeRecord_encodeRecord _ _ (cfgDefaults_mapping_length _)]

theorem exec_cfgRead (s : State) :
    exec .cfgRead s = .next { s with responses := s.responses ++ 0x00000000 :: wordsOfBytes (encodeRecord s.cfg) } :=
  cfgRead_answersOnly.exec_of_ok rfl

theorem exec_cfgSave (s : State) :
    exec .cfgSave s =
      .next { s with store := s.store ++ [encodeRecord s.cfg], responses := s.responses ++ [0x00000000] } := rfl

/-- CFG_WRITE of a payload that carries the valid record `r`. -/
theorem exec_cfgWrite_valid (record : recordOperand s.params payload = r) (valid : cfgValid s.params r = true) :
    exec (.cfgWrite payload) s =
      .next { s with cfg := decodeRecord s.params r, responses := s.responses ++ [0x00000000] } := by
  subst record
  exact if_pos valid

theorem exec_cfgWrite_invalid (record : recordOperand s.params payload = r) (invalid : cfgValid s.params r = false) :
    exec (.cfgWrite payload) s =
      .next { s with
        responses := s.responses ++ [0x03000000], notifications := s.notifications ++ [0x30400000] } := by
  subst record
  exact if_neg (ne_true_of_eq_false invalid)

theorem exec_cfgDefault (s : State) :
    exec .cfgDefault s = .next { s with cfg := cfgDefaults s.params, responses := s.responses ++ [0x00000000] } := by
  rw [exec, execCfgDefault, cfgApplyDefaults_eq]
  rfl

/-- CFG_LOAD without a record is CFG_DEFAULT (R414). -/
theorem exec_cfgLoad_none (s : State) : exec (.cfgLoad none) s = exec .cfgDefault s := rfl

/-- CFG_LOAD of a valid record is CFG_WRITE of it (R411, R414). -/
theorem exec_cfgLoad_valid (record : recordOperand s.params payload = r) (valid : cfgValid s.params r = true) :
    exec (.cfgLoad (some payload)) s =
      .next { s with cfg := decodeRecord s.params r, responses := s.responses ++ [0x00000000] } := by
  subst record
  exact if_pos valid

theorem exec_cfgLoad_invalid (record : recordOperand s.params payload = r) (invalid : cfgValid s.params r = false) :
    exec (.cfgLoad (some payload)) s =
      .next { s with
        cfg := cfgDefaults s.params, responses := s.responses ++ [0x03000000],
        notifications := s.notifications ++ [0x30400000] } := by
  subst record
  rw [exec, execCfgLoad, if_neg (ne_true_of_eq_false invalid), cfgApplyDefaults_eq]
  rfl

end

/-- Settles O46. -/
theorem cfgReadAndSaveHandOutTheRecord : Obligations.CfgReadAndSaveHandOutTheRecord :=
  fun s => ⟨exec_cfgRead s, exec_cfgSave s⟩

/-- Settles O47. -/
theorem cfgWriteValidates : Obligations.CfgWriteValidates :=
  fun _ _ => ⟨exec_cfgWrite_valid rfl, exec_cfgWrite_invalid rfl⟩

/-- Settles O48. -/
theorem cfgDefaultAndLoadApply : Obligations.CfgDefaultAndLoadApply :=
  fun _ s => ⟨exec_cfgDefault s, (exec_cfgLoad_none s).trans (exec_cfgDefault s), exec_cfgLoad_valid rfl,
    exec_cfgLoad_invalid rfl⟩

/-! ### Validation (R400) -/

/-- A 16-bit field is its low byte and 256 times its high byte (R104). -/
theorem recField_toNat (bs : List Byte) (k : Nat) :
    (recField bs k).toNat = (bs.getD k 0).toNat + 256 * (bs.getD (k + 1) 0).toNat := by
  rw [recField, toNat_append_eq_add, recByte, recByte, Nat.add_comm, Nat.mul_comm]
  rfl

/-- A demand on every mapping entry is a demand on the bytes of the image from offset 14 on (R104). -/
theorem forall_mem_decodeRecord_mapping {P : Byte → Prop} (p : Params) (bs : List Byte) :
    (∀ m ∈ (decodeRecord p bs).mapping, P m) ↔ ∀ o < p.maxOutputChannels, P (bs.getD (14 + o) 0) :=
  List.forall_mem_map.trans (by simp only [List.mem_range, recByte])

/-- What `cfg_valid` demands, read off the image; the mapping has its length from the decoding (R400). -/
theorem cfgValid_iff (p : Params) (bs : List Byte) :
    cfgValid p bs = true ↔
      (recField bs 0).toNat = p.configVersion ∧
      (p.minSyncLo ≤ (recField bs 2).toNat ∧ (recField bs 2).toNat ≤ p.minSyncHi) ∧
      (p.centerLo ≤ (recField bs 4).toNat ∧ (recField bs 4).toNat ≤ p.centerHi) ∧
      (p.rangeLo ≤ (recField bs 6).toNat ∧ (recField bs 6).toNat ≤ p.rangeHi) ∧
      ∀ o < p.maxOutputChannels, (bs.getD (14 + o) 0).toNat ≤ p.maxInputChannels := by
  rw [cfgValid, decide_eq_true_iff, CfgRecord.Legal, forall_mem_decodeRecord_mapping,
    and_iff_right (decodeRecord_mapping_length p bs)]
  rfl

/-- Settles O49: the fields of the statement are those that `decode` reads. -/
theorem validationChecksTheImage : Obligations.ValidationChecksTheImage := by
  intro p r _
  rw [cfgValid_iff]
  constructor
  · intro valid field hfield
    obtain rfl : field = fun k => (recField r k).toNat :=
      funext fun k => (hfield k).trans (recField_toNat r k).symm
    exact valid
  · exact fun legal => legal _ (recField_toNat r)

/-! ### The round trip (R420) -/

/-- Settles O50: what is read and saved is the image of the record written, and that image is the record itself. -/
theorem configurationRoundTrips : Obligations.ConfigurationRoundTrips := by
  intro r pad s size valid
  have image : encodeRecord (decodeRecord s.params r) = r := encodeRecord_decodeRecord size
  refine ⟨_, _, _, exec_cfgWrite_valid (recordOperand_append_pad size pad) valid, exec_cfgRead _, ?_, exec_cfgSave _, ?_,
    fun e same => ⟨_, exec_cfgLoad_valid (recordOperand_append_pad (same ▸ size) pad) (same ▸ valid), ?_⟩⟩
  · rw [image]
  · rw [image]
  · rw [same]

/-! ### What can reach `cfg` (R403) -/

/-- An instruction that leaves another record in `cfg` is one of the four, and leaves a valid record or the defaults. -/
theorem CfgWrite.validated {s : State} {i : Instr} {c : CfgRecord} (h : CfgWrite s i c) :
    c = s.cfg ∨
    (WritesCfg i ∧ (c = cfgDefaults s.params ∨ ∃ r, cfgValid s.params r = true ∧ c = decodeRecord s.params r)) := by
  cases h with
  | kept => exact .inl rfl
  | record bytes writes valid => exact .inr ⟨writes, .inr ⟨bytes, valid, rfl⟩⟩
  | defaults writes =>
    exact .inr ⟨writes, .inl (decodeRecord_encodeRecord _ _ (cfgDefaults_mapping_length _))⟩

/-- Settles O51, by the list of what each instruction can leave in `cfg`. -/
theorem onlyConfigurationWordsWriteCfg : Obligations.OnlyConfigurationWordsWriteCfg :=
  fun i s t h => (exec_writes i s t h).cfg.validated

end Sys2Proof.Machine
end

section
/-! PROOFS. The whole machine: what RESET leaves (O53), what a TICK does to each of the three units (O52), and the words that
spell no defined opcode, which decode to a reserved one or to nothing (O10). -/

namespace Sys2Proof

/-- The instruction is one of the 14 reserved opcodes (R145). -/
def Instr.isReserved : Instr → Bool
  | .reservedOp00 _ | .reservedOp06 _ | .reservedOp07 _ | .reservedOp0F _ | .reservedOp15 _ | .reservedOp16 _
  | .reservedOp17 _ | .reservedOp18 _ | .reservedOp19 _ | .reservedOp1A _ | .reservedOp1B _ | .reservedOp1C _
  | .reservedOp1D _ | .reservedOp1E _ => true
  | _ => false

/-- The mnemonics of the rows whose mask covers the opcode alone (R144, R145). -/
def reservedMnemonics : List String := (opcodeTable.filter (·.mask = 0xF8000000)).map OpRow.mnemonic

/-- No defined opcode has its mnemonic among the reserved ones. -/
theorem Instr.isReserved_of_mnemonic {i : Instr} (h : i.mnemonic ∈ reservedMnemonics) : i.isReserved = true := by
  cases i with
  | reservedOp00 | reservedOp06 | reservedOp07 | reservedOp0F | reservedOp15 | reservedOp16 | reservedOp17 | reservedOp18
  | reservedOp19 | reservedOp1A | reservedOp1B | reservedOp1C | reservedOp1D | reservedOp1E => rfl
  | _ => exact absurd h (of_decide_eq_false rfl)

/-- The word matches no row of a defined opcode (R144, R145). -/
def MatchesNoDefinedRow (w : Word) : Prop := ∀ row ∈ opcodeTable, row.Matches w → row.mask = 0xF8000000

namespace MatchesNoDefinedRow

variable {w : Word}

/-- What such a word spells, if anything, is a reserved opcode. -/
theorem isReserved (h : MatchesNoDefinedRow w) {payload : List Byte} {i : Instr} (decoded : decodeOp w payload = .ok i) :
    i.isReserved = true := by
  obtain ⟨row, hrow, hmatch, hname⟩ := exists_row_matches_opcodeWord i
  have mask : row.mask = 0xF8000000 := h row hrow ((opcodeWord_of_decodeOp decoded).1 ▸ hmatch)
  exact Instr.isReserved_of_mnemonic
    (hname ▸ List.mem_map_of_mem (List.mem_filter.mpr ⟨hrow, decide_eq_true mask⟩))

/-- No payload words follow such a word: the two that are followed by some match CFG_WRITE and CFG_LOAD (R150). -/
theorem payloadCount_eq_zero (h : MatchesNoDefinedRow w) (W : Nat) : payloadCount W w = 0 := by
  refine if_neg ?_
  rintro (rfl | rfl)
  · exact absurd (h opcodeTable[13] (List.getElem_mem _) rfl) (by decide)
  · exact absurd (h opcodeTable[16] (List.getElem_mem _) rfl) (by decide)

end MatchesNoDefinedRow

namespace Machine

/-! ### RESET (R455, R550) -/

/-- Settles O53: the defaults that RESET applies are the power-on value of `cfg`. -/
theorem resetRestoresEveryUnit : Obligations.ResetRestoresEveryUnit := by
  intro s
  rw [exec, execReset, State.resetUnits, cfgApplyDefaults_eq]
  rfl

/-! ### TICK (R450) -/

/-- The three cases of a tick procedure are those of the claim. -/
theorem tickOf_of_cases {U : Type} {old counted expired : U} {timeout limit : Nat} {errorWord : Word} {P Q : Prop}
    {r : U × List Word}
    (h : (limit ≤ timeout ∧ r = (old, [])) ∨ (timeout + 1 < limit ∧ P ∧ r = (counted, [])) ∨
      (timeout + 1 = limit ∧ Q ∧ r = (expired, [errorWord]))) :
    Claims.TickOf old timeout limit counted expired errorWord r.1 r.2 := by
  obtain ⟨reached, rfl⟩ | ⟨below, -, rfl⟩ | ⟨last, -, rfl⟩ := h
  · exact ⟨fun _ => ⟨rfl, rfl⟩, fun _ => by omega, fun _ => by omega⟩
  · exact ⟨fun _ => by omega, fun _ => ⟨rfl, rfl⟩, fun _ => by omega⟩
  · exact ⟨fun _ => by omega, fun _ => by omega, fun _ => ⟨rfl, rfl⟩⟩

/-- Settles O52, by the cases of each unit's tick procedure. -/
theorem tickCountsAndExpires : Obligations.TickCountsAndExpires := fun s ppmLimit pcmLimit srxlLimit =>
  ⟨_, _, _, _, _, _, rfl, tickOf_of_cases (ppmTick_cases s.params s.ppm ppmLimit),
    tickOf_of_cases (pcmTick_cases s.params s.pcm pcmLimit),
    tickOf_of_cases (srxlTick_cases s.params s.srxl srxlLimit)⟩

/-! ### Illegal words (R460) -/

theorem exec_of_isReserved {i : Instr} (h : i.isReserved = true) (s : State) : exec i s = .next (illegalWord s) := by
  cases i with
  | reservedOp00 | reservedOp06 | reservedOp07 | reservedOp0F | reservedOp15 | reservedOp16 | reservedOp17 | reservedOp18
  | reservedOp19 | reservedOp1A | reservedOp1B | reservedOp1C | reservedOp1D | reservedOp1E => rfl
  | _ => cases h

/-- A word that matches no row of a defined opcode is illegal, whether it spells a reserved opcode or nothing. -/
theorem execute_of_matchesNoDefinedRow {w : Word} (h : MatchesNoDefinedRow w) (payload : List Byte) (s : State) :
    execute w payload s = .next (illegalWord s) := by
  cases decoded : decodeOp w payload with
  | ok i => rw [execute_of_decodeOp decoded, exec_of_isReserved (h.isReserved decoded)]
  | error e => rw [execute, decoded]

/-- Settles O10: a reserved opcode by its meaning, and an illegal word by its one-word arrival. -/
theorem illegalWordsAreAnswered : Obligations.IllegalWordsAreAnswered := by
  refine ⟨fun s low i hi => ?_, fun s w rest hp need hi undefined => ?_⟩
  · exact exec_of_isReserved (List.all_eq_true.mp rfl i hi) s
  · have noRow : MatchesNoDefinedRow w := undefined
    rw [step_complete hp hi (arrive_one_word need (noRow.payloadCount_eq_zero _))]
    exact execute_of_matchesNoDefinedRow noRow [] _

end Machine

end Sys2Proof
end

section
/-! PROOFS. No waiting word stops the block (O14). Only UART_BYTE, GET_INPUT and GET_OUTPUT can fault, and the invariant
bounds the indices they form (R101) and keeps the range they divide by from 0 (R360). -/

namespace Sys2Proof

/-- No range an admitted parameter set allows is zero (R404). -/
theorem Params.Admitted.rangeLo_pos {p : Params} (h : p.Admitted) : 0 < p.rangeLo := by
  obtain ⟨-, -, -, -, -, -, -, -, -, -, -, -, -, -, -, -, -, -, -, -, positive, -⟩ := h
  exact positive

namespace Machine

/-! ### UART_BYTE: the byte index and the frame length are inside the bank (R101, R306) -/

namespace Srxl.Inv

variable {p : Params} {u : Srxl}

/-- In a frame the next byte index is inside a frame the bank holds (R305, R306). -/
theorem frame_in_bank (hp : p.Admitted) (h : u.Inv p) (hs : u.state = .rd) :
    u.byteIndex.toNat < u.expected.toNat ∧ 2 ≤ u.expected.toNat ∧ u.expected.toNat ≤ (u.bank.side u.sel).length := by
  have length : 27 ≤ u.expected.toNat ∧ u.expected.toNat ≤ 35 := by
    obtain e | e := h.frame_length hs <;> rw [e] <;> decide
  have size := hp.srxlBankSize_ge
  rw [h.bank_size.side_length]
  exact ⟨(h.byteIndex_lt hs).2, by omega, by omega⟩

theorem store_ok (hp : p.Admitted) (h : u.Inv p) (hs : u.state = .rd) (d : Byte) : ∃ r, srxlStore d u = .ok r := by
  obtain ⟨inside, two, fits⟩ := h.frame_in_bank hp hs
  rcases srxlStore_cases d u with ⟨full, _⟩ | ⟨_, _, e⟩ | ⟨_, _, e⟩
  · exact absurd (inside.trans_le fits) (Nat.not_lt_of_le full)
  · exact ⟨_, e⟩
  · rw [e]
    exact srxlCheck_ok _ two (by rwa [Banks.side_write_same, List.length_set])

theorem byte_ok (hp : p.Admitted) (h : u.Inv p) (d : Byte) (t : U16) : ∃ r, srxlByte p d t u = .ok r := by
  rcases srxlByte_cases p d t u with ⟨_, e⟩ | ⟨_, e⟩ | ⟨hs, e⟩
  · exact ⟨_, e⟩
  · exact ⟨_, e⟩
  · rw [e]
    exact (h.rearm (by simp [hs]) t).store_ok hp hs d

end Srxl.Inv

/-! ### GET_INPUT and GET_OUTPUT: a channel below the count is in the bank, and the range is not 0 -/

namespace State.Inv

variable {s : State}

/-- Every channel below the count has an entry in the stable bank of the selected decoder (R358, R362). -/
theorem inputUs_ok (hs : s.Inv) {i : Nat} (below : i < aggCount s) : ∃ us, aggInputUs s i = .ok us := by
  apply aggInputUs_ok
  unfold aggCount at below
  cases source : s.agg.source <;> rw [source] at below <;> dsimp only at below ⊢
  case ppm =>
    rw [hs.ppm.bank_size.side_length]
    obtain zero | ⟨_, le⟩ := hs.ppm.count_range
    · simp [zero] at below
    · exact below.trans_le le
  case pcm =>
    have count : s.pcm.count.toNat ≤ 10 := by
      obtain e | e | e := hs.pcm.count_values <;> rw [e] <;> decide
    have size := hs.admitted.pcmBankSize_ge
    rw [hs.pcm.bank_size.side_length]
    omega
  case srxl =>
    have count : s.srxl.count.toNat ≤ 16 := by
      obtain e | e | e := hs.srxl.count_values <;> rw [e] <;> decide
    have size := hs.admitted.srxlBankSize_ge
    rw [hs.srxl.bank_size.side_length]
    omega

/-- A legal configuration has a mapping entry for every output (R35). -/
theorem mapping_length (hs : s.Inv) : s.cfg.mapping.length = s.params.maxOutputChannels := by
  obtain ⟨-, -, -, -, hmapping, -⟩ := hs.legal
  exact hmapping

/-- A legal configuration has no zero range, since no admitted parameter set has one (R360, R404). -/
theorem pulseWidthRange_ne_zero (hs : s.Inv) : s.cfg.pulseWidthRange ≠ 0 := by
  obtain ⟨-, -, -, ⟨lower, -⟩, -⟩ := hs.legal
  intro zero
  rw [zero] at lower
  exact Nat.not_lt_of_le lower hs.admitted.rangeLo_pos

theorem output_ok (hs : s.Inv) {o : Nat} (ho : o < s.params.maxOutputChannels) : ∃ v, aggOutput s o = .ok v := by
  have mapping : s.cfg.mapping[o]? ≠ none := by simpa [hs.mapping_length] using ho
  rcases aggOutput_cases s o with ⟨none, _⟩ | ⟨m, _, ⟨_, e⟩ | ⟨_, zero, _⟩ | ⟨scaled, _, e⟩⟩
  · exact absurd none mapping
  · exact ⟨_, e⟩
  · exact absurd zero hs.pulseWidthRange_ne_zero
  · obtain ⟨us, width⟩ := hs.inputUs_ok (i := m.toNat - 1) (by omega)
    exact ⟨_, e.trans (by rw [width]; rfl)⟩

/-! ### Every instruction and every word -/

theorem exec_getInput_next (hs : s.Inv) (i : Byte) : ∃ t, exec (.getInput i) s = .next t := by
  by_cases range : s.agg.source = .none ∨ aggCount s ≤ i.toNat
  · exact ⟨_, exec_getInput_range range⟩
  · obtain ⟨source, count⟩ := not_or.mp range
    obtain ⟨us, width⟩ := hs.inputUs_ok (Nat.lt_of_not_le count)
    exact ⟨_, exec_getInput_ok source (Nat.lt_of_not_le count) width⟩

theorem exec_getOutput_next (hs : s.Inv) (o : Byte) : ∃ t, exec (.getOutput o) s = .next t := by
  by_cases range : s.params.maxOutputChannels ≤ indexOperand o
  · exact ⟨_, if_pos range⟩
  · obtain ⟨v, value⟩ := hs.output_ok (Nat.lt_of_not_le range)
    exact ⟨_, exec_getOutput_ok (Nat.lt_of_not_le range) value⟩

/-- Every instruction answers a next state (R500). -/
theorem exec_next (hs : s.Inv) (i : Instr) : ∃ t, exec i s = .next t := by
  cases i with
  | uartByte d x =>
    obtain ⟨r, hr⟩ := hs.srxl.byte_ok hs.admitted d x
    exact ⟨_, exec_uartByte hr⟩
  | getInput k => exact hs.exec_getInput_next k
  | getOutput o => exact hs.exec_getOutput_next o
  | getDecoderStatus k | clearNewData k =>
    rcases decoderOperand_cases k with ⟨rfl, _⟩ | ⟨rfl, _⟩ | ⟨rfl, _⟩ | ⟨rfl, _⟩ <;> exact ⟨_, rfl⟩
  | cfgWrite payload =>
    cases valid : cfgValid s.params (recordOperand s.params payload) with
    | true => exact ⟨_, exec_cfgWrite_valid rfl valid⟩
    | false => exact ⟨_, exec_cfgWrite_invalid rfl valid⟩
  | cfgLoad payload =>
    cases payload with
    | none => exact ⟨_, rfl⟩
    | some bytes =>
      cases valid : cfgValid s.params (recordOperand s.params bytes) with
      | true => exact ⟨_, exec_cfgLoad_valid rfl valid⟩
      | false => exact ⟨_, exec_cfgLoad_invalid rfl valid⟩
  | edge | alarmPpm | alarmSrxl | tick | update | getSource | getCount | cfgRead | cfgDefault | cfgSave | reset
  | reservedOp00 | reservedOp06 | reservedOp07 | reservedOp0F | reservedOp15 | reservedOp16 | reservedOp17
  | reservedOp18 | reservedOp19 | reservedOp1A | reservedOp1B | reservedOp1C | reservedOp1D | reservedOp1E =>
    exact ⟨_, rfl⟩

/-- A word with its payload runs: the instruction it spells, or the answer to an illegal word (R449, R460). -/
theorem execute_next (hs : s.Inv) (w : Word) (payload : List Byte) : ∃ t, execute w payload s = .next t := by
  cases decoded : decodeOp w payload with
  | ok i => exact execute_of_decodeOp decoded s ▸ hs.exec_next i
  | error e => exact ⟨illegalWord s, by rw [execute, decoded]⟩

theorem takeWord_next (hs : s.Inv) (w : Word) (rest : List Word) : ∃ t, takeWord w (s.withInput rest) = .next t := by
  have taken := hs.take w rest
  rw [takeWord, State.withInput_params, State.withInput_inp]
  cases arrived : arrive s.params s.inp w with
  | collecting u => exact ⟨_, rfl⟩
  | complete op payload u =>
    rw [arrived] at taken
    exact taken.execute_next op payload

end State.Inv

/-- Settles O14, by what the port holds: a waiting word is taken, and on an empty port an idle block stays as it is. -/
theorem noStepStopsTheBlock : Obligations.NoStepStopsTheBlock := by
  intro s hs waitsOrIdle
  cases port : s.input with
  | nil =>
    have idle : s.inp.need = 0 := waitsOrIdle.resolve_left fun waits => waits port
    exact ⟨s, by rw [step_empty s hs.admitted port, awaitWord, if_pos idle]⟩
  | cons w rest =>
    rw [step_word s w rest hs.admitted port]
    exact hs.takeWord_next w rest

end Machine

end Sys2Proof
end

section
/-! PROOFS. An instruction emits at most one ERROR for each decoder number (O55): each procedure of a decoder emits at most one,
and in the name of that decoder only, so what two or three decoders emit in one instruction adds up to one for each. -/

namespace Sys2Proof.Machine

open Claims (errorsOf)

/-! ### Words in the name of one decoder (R148) -/

/-- At most one ERROR word, and that one in the name of the decoder number `k`. -/
structure OneErrorOf (k : BitVec 2) (ns : List Word) : Prop where
  count : ∀ d, errorsOf d ns ≤ if d = k then 1 else 0

/-- The kind and the decoder field decide what a word counts for. -/
theorem errorsOf_noteWord (d : BitVec 2) (kind : BitVec 4) (k : BitVec 2) (code : BitVec 8) (value : U16) :
    errorsOf d [noteWord kind k code value] = if kind = 3 ∧ k = d then 1 else 0 := by
  simp [errorsOf, noteWord_kind, noteWord_decoder, List.countP_singleton]

theorem errorsOf_noteSync (d : BitVec 2) (x : DecoderId) : errorsOf d [noteSync x] = 0 := errorsOf_noteWord ..

theorem errorsOf_noteFrame (d : BitVec 2) (x : DecoderId) (count : U16) : errorsOf d [noteFrame x count] = 0 :=
  errorsOf_noteWord ..

namespace OneErrorOf

variable {k : BitVec 2} {ns ms : List Word}

theorem silent (h : ∀ d, errorsOf d ns = 0) : OneErrorOf k ns := ⟨fun d => (h d).trans_le (Nat.zero_le _)⟩

theorem nil : OneErrorOf k [] := silent fun _ => rfl

theorem error (x : Option DecoderId) (c : Cause) : OneErrorOf (x.elim 0 DecoderId.code) [noteError x c] := by
  refine ⟨fun d => ?_⟩
  rw [noteError, errorsOf_noteWord]
  simp [eq_comm]

theorem append_sync (h : OneErrorOf k ns) (x : DecoderId) : OneErrorOf k (ns ++ [noteSync x]) := by
  refine ⟨fun d => ?_⟩
  rw [errorsOf_append, errorsOf_noteSync]
  exact h.count d

theorem le_one (h : OneErrorOf k ns) (d : BitVec 2) : errorsOf d ns ≤ 1 := (h.count d).trans (by split <;> decide)

/-- What the three decoders emit one behind the other: each decoder number is the name of one of them at most. -/
theorem append_le_one {xs ys zs : List Word} (ppm : OneErrorOf 1 xs) (pcm : OneErrorOf 2 ys) (srxl : OneErrorOf 3 zs)
    (d : BitVec 2) : errorsOf d (xs ++ ys ++ zs) ≤ 1 := by
  have names : (if d = 1 then 1 else 0) + (if d = 2 then 1 else 0) + (if d = 3 then 1 else 0) ≤ 1 := by
    revert d
    decide
  rw [errorsOf_append, errorsOf_append]
  exact (Nat.add_le_add (Nat.add_le_add (ppm.count d) (pcm.count d)) (srxl.count d)).trans names

end OneErrorOf

/-! ### PPM -/

theorem ppmCloseFrame_oneError (p : Params) (u : Ppm) : OneErrorOf 1 (ppmCloseFrame p u).2 := by
  rcases ppmCloseFrame_cases p u with ⟨_, e⟩ | ⟨_, e⟩ <;> rw [e]
  · exact .silent fun _ => errorsOf_noteFrame ..
  · exact .nil

theorem ppmEdge_oneError (p : Params) (c : CfgRecord) (t : U16) (r : Bool) (u : Ppm) :
    OneErrorOf 1 (ppmEdge p c t r u).2 := by
  rcases ppmEdge_cases p c t r u with ⟨_, e⟩ | ⟨_, ⟨_, e⟩ | ⟨_, e⟩ | ⟨_, _, e⟩ | ⟨_, _, e⟩⟩ <;> rw [e]
  · exact .nil
  · exact .nil
  · exact .nil
  · exact .nil
  · exact (ppmCloseFrame_oneError ..).append_sync _

theorem ppmAlarm_oneError (p : Params) (u : Ppm) : OneErrorOf 1 (ppmAlarm p u).2 := by
  rcases ppmAlarm_cases p u with ⟨_, e⟩ | ⟨_, ⟨_, e⟩ | ⟨_, e⟩ | ⟨_, e⟩⟩ <;> rw [e]
  · exact .nil
  · exact OneErrorOf.nil.append_sync _
  · exact .nil
  · exact (ppmCloseFrame_oneError ..).append_sync _

theorem ppmTick_oneError (p : Params) (u : Ppm) : OneErrorOf 1 (ppmTick p u).2 := by
  unfold ppmTick
  split
  · exact .nil
  · exact .nil
  · exact .error (some .ppm) .timeout

/-! ### PCM -/

theorem pcmError_oneError (c : Cause) (u : Pcm) : OneErrorOf 2 (pcmError c u).2 := .error (some .pcm) c

theorem pcmAccept_oneError (n : BitVec 4) (u : Pcm) : OneErrorOf 2 (pcmAccept n u).2 :=
  .silent fun _ => errorsOf_noteFrame ..

theorem pcmFinish_oneError (u : Pcm) : OneErrorOf 2 (pcmFinish u).2 := by
  rcases pcmFinish_cases u with ⟨_, e⟩ | ⟨_, e⟩ | ⟨_, _, e⟩ <;> rw [e]
  · exact pcmAccept_oneError ..
  · exact pcmAccept_oneError ..
  · exact pcmError_oneError ..

theorem pcmTrailer_oneError (bits : BitVec 8) (u : Pcm) : OneErrorOf 2 (pcmTrailer bits u).2 := by
  rcases pcmTrailer_cases bits u with ⟨_, e⟩ | ⟨_, e⟩ <;> rw [e]
  · exact .nil
  · exact pcmFinish_oneError _

theorem pcmTake_oneError (p : Params) (bits : BitVec 8) (u : Pcm) : OneErrorOf 2 (pcmTake p bits u).2 := by
  rcases pcmTake_cases p bits u with ⟨_, _, e⟩ | ⟨_, _, _, e⟩ | ⟨_, _, _, e⟩ | ⟨_, e⟩ <;> rw [e]
  · exact .nil
  · exact .nil
  · exact pcmError_oneError ..
  · exact pcmTrailer_oneError ..

/-- A symbol that is a desync is not tested any further (R502). -/
theorem pcmSymbol_oneError (p : Params) (sym : Nat) {u : Pcm} (hs : u.state ≠ .wfs) :
    OneErrorOf 2 (pcmSymbol p sym u).2 := by
  rcases pcmSymbol_cases p sym hs with e | ⟨bits, e⟩ <;> rw [e]
  · exact pcmError_oneError ..
  · exact pcmTake_oneError ..

theorem pcmEdge_oneError (p : Params) (t : U16) (r : Bool) (u : Pcm) : OneErrorOf 2 (pcmEdge p t r u).2 := by
  rcases pcmEdge_cases p t r u with ⟨_, e⟩ | ⟨_, _, e⟩ | ⟨_, _, _, e⟩ | ⟨_, _, hs, e⟩ <;> rw [e]
  · exact .nil
  · exact .silent fun _ => errorsOf_noteSync ..
  · exact .nil
  · exact pcmSymbol_oneError p _ (u := { u with lastEdge := truncTicks p t }) hs

theorem pcmTick_oneError (p : Params) (u : Pcm) : OneErrorOf 2 (pcmTick p u).2 := by
  unfold pcmTick
  split
  · exact .nil
  · exact .nil
  · exact .error (some .pcm) .timeout

/-! ### SRXL -/

theorem srxlError_oneError (c : Cause) (u : Srxl) : OneErrorOf 3 (srxlError c u).2 := .error (some .srxl) c

theorem srxlHeader_oneError (d : Byte) (u : Srxl) : OneErrorOf 3 (srxlHeader d u).2 := by
  rcases srxlHeader_cases d u with ⟨_, e⟩ | ⟨_, e⟩ | ⟨_, _, e⟩ <;> rw [e]
  · exact .nil
  · exact .nil
  · exact srxlError_oneError ..

theorem srxlStore_oneError {d : Byte} {u : Srxl} {r : Srxl × List Word} (h : srxlStore d u = .ok r) : OneErrorOf 3 r.2 := by
  rcases srxlStore_eq_ok h with ⟨_, rfl⟩ | checked
  · exact .nil
  · rcases srxlCheck_eq_ok checked with ⟨n, _, rfl⟩ | rfl
    · exact .silent fun _ => errorsOf_noteFrame ..
    · exact srxlError_oneError ..

theorem srxlByte_oneError {p : Params} {d : Byte} {t : U16} {u : Srxl} {r : Srxl × List Word}
    (h : srxlByte p d t u = .ok r) : OneErrorOf 3 r.2 := by
  rcases srxlByte_cases p d t u with ⟨_, e⟩ | ⟨_, e⟩ | ⟨_, e⟩ <;> rw [e] at h
  · cases h
    exact .nil
  · cases h
    exact srxlHeader_oneError ..
  · exact srxlStore_oneError h

theorem srxlAlarm_oneError (u : Srxl) : OneErrorOf 3 (srxlAlarm u).2 := by
  rcases srxlAlarm_cases u with ⟨_, e⟩ | ⟨_, ⟨_, e⟩ | ⟨_, e⟩ | ⟨_, e⟩⟩ <;> rw [e]
  · exact .nil
  · exact OneErrorOf.nil.append_sync _
  · exact .nil
  · exact (OneErrorOf.error (some .srxl) .srxlSyncLost).append_sync _

theorem srxlTick_oneError (p : Params) (u : Srxl) : OneErrorOf 3 (srxlTick p u).2 := by
  unfold srxlTick
  split
  · exact .nil
  · exact .nil
  · exact .error (some .srxl) .timeout

/-! ### Instructions -/

/-- From `s` to `t` at most one ERROR word was emitted for each decoder number. -/
def State.OneErrorEach (s t : State) : Prop :=
  ∃ ns, t.notifications = s.notifications ++ ns ∧ ∀ d, errorsOf d ns ≤ 1

section

variable {s t : State} {ns : List Word} {k : BitVec 2}

/-- One decoder, or the block itself, emitted the words. -/
theorem oneErrorEach_of_oneErrorOf (emitted : t.notifications = s.notifications ++ ns) (h : OneErrorOf k ns) :
    s.OneErrorEach t :=
  ⟨ns, emitted, h.le_one⟩

/-- The three decoders emitted the words, one behind the other. -/
theorem oneErrorEach_of_decoders {xs ys zs : List Word} (emitted : t.notifications = s.notifications ++ xs ++ ys ++ zs)
    (ppm : OneErrorOf 1 xs) (pcm : OneErrorOf 2 ys) (srxl : OneErrorOf 3 zs) : s.OneErrorEach t :=
  ⟨xs ++ ys ++ zs, by simp only [emitted, List.append_assoc], ppm.append_le_one pcm srxl⟩

theorem oneErrorEach_of_same (same : t.notifications = s.notifications) : s.OneErrorEach t :=
  ⟨[], by rw [same, List.append_nil], fun _ => Nat.zero_le 1⟩

/-- The block reports an error in its own name (R460, R501). -/
theorem oneErrorEach_of_raiseError {c : Cause} (raised : t.notifications = s.notifications ++ [noteError none c]) :
    s.OneErrorEach t :=
  oneErrorEach_of_oneErrorOf raised (.error none c)

theorem AnswersOnly.oneErrorEach {i : Instr} {answer : State → Except Fault (List Word)} (h : AnswersOnly i answer)
    (run : exec i s = .next t) : s.OneErrorEach t := by
  obtain ⟨words, rfl, _⟩ := h.repeats run
  exact oneErrorEach_of_same rfl

/-- UART_BYTE answers a next state only when the decoder does not fault (R300). -/
theorem execUartByte_eq_next {d : Byte} {x : U16} (run : execUartByte d x s = .next t) :
    ∃ r, srxlByte s.params d x s.srxl = .ok r ∧ t = s.takeSrxl r := by
  unfold execUartByte at run
  cases taken : srxlByte s.params d x s.srxl with
  | error f =>
    rw [taken] at run
    cases run
  | ok r =>
    rw [taken] at run
    cases run
    exact ⟨r, rfl, rfl⟩

theorem execUartByte_oneErrorEach {d : Byte} {x : U16} (run : execUartByte d x s = .next t) : s.OneErrorEach t := by
  obtain ⟨r, taken, rfl⟩ := execUartByte_eq_next run
  exact oneErrorEach_of_oneErrorOf rfl (srxlByte_oneError taken)

theorem execClearNewData_oneErrorEach {x : BitVec 2} (run : execClearNewData x s = .next t) : s.OneErrorEach t := by
  rcases decoderOperand_cases x with ⟨rfl, _⟩ | ⟨rfl, _⟩ | ⟨rfl, _⟩ | ⟨rfl, _⟩ <;>
  · cases run
    exact oneErrorEach_of_same rfl

theorem execCfgWrite_oneErrorEach {payload : List Byte} (run : execCfgWrite payload s = .next t) : s.OneErrorEach t := by
  unfold execCfgWrite at run
  split at run <;> cases run
  · exact oneErrorEach_of_same rfl
  · exact oneErrorEach_of_raiseError rfl

theorem execCfgLoad_oneErrorEach {payload : Option (List Byte)} (run : execCfgLoad payload s = .next t) :
    s.OneErrorEach t := by
  cases payload with
  | none =>
    cases run
    exact oneErrorEach_of_same rfl
  | some bytes =>
    unfold execCfgLoad at run
    dsimp only at run
    split at run <;> cases run
    · exact oneErrorEach_of_same rfl
    · exact oneErrorEach_of_raiseError rfl

end

/-- Settles O55: EDGE and TICK by what their decoders emit together, every other instruction by its one emitter, if any. -/
theorem atMostOneErrorPerDecoder : Obligations.AtMostOneErrorPerDecoder := by
  intro i s t run
  change s.OneErrorEach t
  cases i with
  | edge r x =>
    cases run
    exact oneErrorEach_of_decoders (List.append_nil _).symm (ppmEdge_oneError ..) (pcmEdge_oneError ..) .nil
  | tick =>
    cases run
    exact oneErrorEach_of_decoders rfl (ppmTick_oneError ..) (pcmTick_oneError ..) (srxlTick_oneError ..)
  | uartByte d x => exact execUartByte_oneErrorEach run
  | alarmPpm =>
    cases run
    exact oneErrorEach_of_oneErrorOf rfl (ppmAlarm_oneError ..)
  | alarmSrxl =>
    cases run
    exact oneErrorEach_of_oneErrorOf rfl (srxlAlarm_oneError ..)
  | getSource => exact getSource_answersOnly.oneErrorEach run
  | getCount => exact getCount_answersOnly.oneErrorEach run
  | getInput k => exact (getInput_answersOnly k).oneErrorEach run
  | getOutput o => exact (getOutput_answersOnly o).oneErrorEach run
  | getDecoderStatus k => exact (getDecoderStatus_answersOnly k).oneErrorEach run
  | cfgRead => exact cfgRead_answersOnly.oneErrorEach run
  | clearNewData k => exact execClearNewData_oneErrorEach run
  | cfgWrite payload => exact execCfgWrite_oneErrorEach run
  | cfgLoad payload => exact execCfgLoad_oneErrorEach run
  | update | cfgDefault | cfgSave | reset =>
    cases run
    exact oneErrorEach_of_same rfl
  | reservedOp00 | reservedOp06 | reservedOp07 | reservedOp0F | reservedOp15 | reservedOp16 | reservedOp17 | reservedOp18
  | reservedOp19 | reservedOp1A | reservedOp1B | reservedOp1C | reservedOp1D | reservedOp1E =>
    cases run
    exact oneErrorEach_of_raiseError rfl

end Sys2Proof.Machine
end

section
/-! PROOFS. The alarms owed are the armed ones (O60): an edge or a byte that arms an alarm has its due time agree with the
compare register, every other instruction keeps an alarm or leaves it unarmed, and the environment's bookkeeping follows. -/

namespace Sys2Proof.Machine

/-! ### Times and tick counts (R10, R16) -/

/-- A time modulo the range of a tick count is its 16 low bits, stored as a tick count. -/
theorem ofNat_mod_eq_truncTicks (p : Params) (d : Nat) :
    BitVec.ofNat 16 (d % 2 ^ p.tickBits) = truncTicks p (BitVec.ofNat 16 d) := by
  apply BitVec.eq_of_toNat_eq
  rw [truncTicks_toNat, BitVec.toNat_ofNat, BitVec.toNat_ofNat]
  rcases Nat.le_total p.tickBits 16 with narrow | wide
  · have low : d % 2 ^ p.tickBits < 2 ^ 16 := (Nat.mod_lt _ (by positivity)).trans_le (Nat.pow_le_pow_right (by decide) narrow)
    rw [Nat.mod_eq_of_lt low, Nat.mod_mod_of_dvd _ (pow_dvd_pow 2 narrow)]
  · have low : d % 2 ^ 16 < 2 ^ p.tickBits := (Nat.mod_lt _ (by decide)).trans_le (Nat.pow_le_pow_right (by decide) wide)
    rw [Nat.mod_eq_of_lt low, Nat.mod_mod_of_dvd _ (pow_dvd_pow 2 wide)]

/-- A sum stored as a tick count sees a summand as a tick count only. -/
theorem truncTicks_truncTicks_add (p : Params) (a b : U16) : truncTicks p (truncTicks p a + b) = truncTicks p (a + b) := by
  rcases Nat.le_total p.tickBits 16 with narrow | wide
  · have dvd : 2 ^ p.tickBits ∣ 2 ^ 16 := pow_dvd_pow 2 narrow
    rw [truncTicks_eq_iff, BitVec.toNat_add, BitVec.toNat_add, Nat.mod_mod_of_dvd _ dvd, Nat.mod_mod_of_dvd _ dvd,
      truncTicks_toNat, Nat.mod_add_mod]
  · rw [truncTicks_of_lt p a (a.isLt.trans_le (Nat.pow_le_pow_right (by decide) wide))]

theorem truncTicks_add_truncTicks (p : Params) (a b : U16) : truncTicks p (a + truncTicks p b) = truncTicks p (a + b) := by
  rw [BitVec.add_comm, truncTicks_truncTicks_add, BitVec.add_comm]

/-- The due time of an alarm set `w` behind an event captured at `captured` is the compare value, as a tick count: the
environment's `captured` and the block's operand `t` are the same time (R575 duty 1). -/
theorem truncTicks_due (p : Params) {captured : Nat} {t : U16} (capture : t = captureTicks p captured) (w : U16) :
    truncTicks p (BitVec.ofNat 16 (captured + (ticksSub p (truncTicks p (t + w)) t).toNat)) = truncTicks p (t + w) := by
  have back : t + (truncTicks p (t + w) - t) = truncTicks p (t + w) := by rw [BitVec.add_comm, BitVec.sub_add_cancel]
  calc truncTicks p (BitVec.ofNat 16 (captured + (ticksSub p (truncTicks p (t + w)) t).toNat))
      = truncTicks p (BitVec.ofNat 16 captured + truncTicks p (truncTicks p (t + w) - t)) := by
        rw [BitVec.ofNat_add, BitVec.ofNat_toNat, BitVec.setWidth_eq, ticksSub]
    _ = truncTicks p (t + (truncTicks p (t + w) - t)) := by
        rw [truncTicks_add_truncTicks, ← truncTicks_truncTicks_add, ← captureTicks, ← capture]
    _ = truncTicks p (t + w) := by rw [back, truncTicks_truncTicks]

/-! ### One alarm and what is owed for it -/

/-- An alarm is owed exactly when it is armed, and it is due at its compare register `compare`. -/
structure AlarmOwed (p : Params) (armed : Bool) (compare : U16) (due : Option Nat) : Prop where
  armed_iff  : armed = true ↔ ∃ d, due = some d
  compare_eq : ∀ d, due = some d → compare = BitVec.ofNat 16 (d % 2 ^ p.tickBits)

namespace AlarmOwed

variable {p : Params} {armed armed' : Bool} {compare compare' : U16} {due : Option Nat}

theorem unarmed (compare : U16) : AlarmOwed p false compare none := ⟨by simp, nofun⟩

/-- An event asks for the alarm anew, `w` behind its own time (R204, R303). -/
theorem rearmed {captured : Nat} {t : U16} (capture : t = captureTicks p captured) (w : U16)
    (compared : compare = truncTicks p (t + w)) :
    AlarmOwed p true compare (some (captured + (ticksSub p compare t).toNat)) where
  armed_iff  := by simp
  compare_eq := by
    rintro _ ⟨⟩
    rw [ofNat_mod_eq_truncTicks, compared, truncTicks_due p capture]

/-- An alarm that is not asked for anew stays owed as it was, or it is not armed and no longer owed. -/
theorem kept_or_off (h : AlarmOwed p armed compare due) (step : armed' = false ∨ (armed' = armed ∧ compare' = compare)) :
    AlarmOwed p armed' compare' (if armed' then due else none) := by
  obtain rfl | ⟨rfl, rfl⟩ := step
  · exact unarmed compare'
  · cases armed' with
    | false => exact unarmed compare'
    | true => exact h

end AlarmOwed

/-! ### What the block does to its alarms (R201, R204, R301, R303) -/

/-- Only an edge arms the PPM alarm or moves its compare register. -/
theorem PpmWrite.alarm_kept_or_off {s : State} {i : Instr} {u : Ppm} (w : PpmWrite s i u) (notEdge : ∀ r x, i ≠ .edge r x) :
    u.alarmArmed = false ∨ (u.alarmArmed = s.ppm.alarmArmed ∧ u.alarmAt = s.ppm.alarmAt) := by
  cases w with
  | kept => exact .inr ⟨rfl, rfl⟩
  | edge r x => exact absurd rfl (notEdge r x)
  | alarm =>
    rcases ppmAlarm_cases s.params s.ppm with ⟨_, e⟩ | ⟨_, ⟨_, e⟩ | ⟨_, e⟩ | ⟨_, e⟩⟩ <;> rw [e]
    · exact .inr ⟨rfl, rfl⟩
    · exact .inl rfl
    · exact .inl rfl
    · exact .inl (ppmCloseFrame_frame s.params { s.ppm with alarmArmed := false }).2
  | tick =>
    unfold ppmTick
    split <;> exact .inr ⟨rfl, rfl⟩
  | clearNewData => exact .inr ⟨rfl, rfl⟩
  | reset => exact .inl rfl

/-- Only a byte arms the SRXL alarm or moves its compare register. -/
theorem SrxlWrite.alarm_kept_or_off {s : State} {i : Instr} {u : Srxl} (w : SrxlWrite s i u)
    (notByte : ∀ d x, i ≠ .uartByte d x) :
    u.alarmArmed = false ∨ (u.alarmArmed = s.srxl.alarmArmed ∧ u.alarmAt = s.srxl.alarmAt) := by
  cases w with
  | kept => exact .inr ⟨rfl, rfl⟩
  | byte d x => exact absurd rfl (notByte d x)
  | alarm =>
    rcases srxlAlarm_cases s.srxl with ⟨_, e⟩ | ⟨_, ⟨_, e⟩ | ⟨_, e⟩ | ⟨_, e⟩⟩ <;> rw [e]
    · exact .inr ⟨rfl, rfl⟩
    · exact .inl rfl
    · exact .inl rfl
    · exact .inl rfl
  | tick =>
    unfold srxlTick
    split <;> exact .inr ⟨rfl, rfl⟩
  | clearNewData => exact .inr ⟨rfl, rfl⟩
  | reset => exact .inl rfl

/-- The alarm is armed and due one window behind `t` (R303). -/
structure Srxl.RearmedAt (p : Params) (t : U16) (u : Srxl) : Prop where
  armed   : u.alarmArmed = true
  alarmAt : u.alarmAt = truncTicks p (t + srxlWindow p)

/-- What a byte of a frame does leaves the alarm alone. -/
theorem Srxl.RearmedAt.store {p : Params} {t : U16} {u : Srxl} (h : u.RearmedAt p t) {d : Byte} {r : Srxl × List Word}
    (stored : srxlStore d u = .ok r) : r.1.RearmedAt p t := by
  rcases srxlStore_eq_ok stored with ⟨_, rfl⟩ | checked
  · exact { h with }
  · rcases srxlCheck_eq_ok checked with ⟨_, _, rfl⟩ | rfl
    · exact { h with }
    · exact { h with }

/-- Every byte re-arms the alarm, whatever its state makes of it (R303). -/
theorem srxlByte_rearmedAt {p : Params} {d : Byte} {t : U16} {u : Srxl} {r : Srxl × List Word}
    (taken : srxlByte p d t u = .ok r) : r.1.RearmedAt p t := by
  have rearm : (srxlRearm p t u).RearmedAt p t := ⟨rfl, rfl⟩
  rcases srxlByte_cases p d t u with ⟨_, e⟩ | ⟨_, e⟩ | ⟨_, e⟩ <;> rw [e] at taken
  · cases taken
    exact rearm
  · cases taken
    rcases srxlHeader_cases d (srxlRearm p t u) with ⟨_, e⟩ | ⟨_, e⟩ | ⟨_, _, e⟩ <;> rw [e] <;> exact ⟨rfl, rfl⟩
  · exact rearm.store taken

/-! ### What the environment owes after a move (R531, R575) -/

section

variable {e : Env} {m : Move} {s t : State}

theorem nextPpmDue_of_not_edge (notEdge : ∀ r x, m.instr ≠ .edge r x) :
    e.nextPpmDue m s t = if t.ppm.alarmArmed then e.ppmDue else none := by
  obtain ⟨time, captured, i⟩ := m
  cases i with
  | edge r x => exact absurd rfl (notEdge r x)
  | _ => rfl

theorem nextSrxlDue_of_not_byte (notByte : ∀ d x, m.instr ≠ .uartByte d x) :
    e.nextSrxlDue m s t = if t.srxl.alarmArmed then e.srxlDue else none := by
  obtain ⟨time, captured, i⟩ := m
  cases i with
  | uartByte d x => exact absurd rfl (notByte d x)
  | _ => rfl

theorem nextPpmDue_of_edge {r : Bool} {x : U16} (edge : m.instr = .edge r x) :
    e.nextPpmDue m s t =
      if t.ppm.alarmArmed then
        if ppmQualifies s.cfg r then some (m.captured + (ticksSub s.params t.ppm.alarmAt x).toNat) else e.ppmDue
      else none := by
  rw [Env.nextPpmDue, edge]

theorem nextSrxlDue_of_byte {d : Byte} {x : U16} (byte : m.instr = .uartByte d x) :
    e.nextSrxlDue m s t =
      if t.srxl.alarmArmed then some (m.captured + (ticksSub s.params t.srxl.alarmAt x).toNat) else none := by
  rw [Env.nextSrxlDue, byte]

/-- The operand of an allowed edge is its capture time (R575 duty 1). -/
theorem capture_of_allows_edge {p : Params} (allowed : e.allows p m = true) {r : Bool} {x : U16}
    (edge : m.instr = .edge r x) : x = captureTicks p m.captured := by
  rw [Env.allows, edge] at allowed
  simp only [captureInOrder, Bool.and_eq_true, decide_eq_true_eq] at allowed
  obtain ⟨-, ⟨-, -, capture⟩, -⟩ := allowed
  exact capture

/-- The operand of an allowed byte is its capture time (R575 duty 1). -/
theorem capture_of_allows_byte {p : Params} (allowed : e.allows p m = true) {d : Byte} {x : U16}
    (byte : m.instr = .uartByte d x) : x = captureTicks p m.captured := by
  rw [Env.allows, byte] at allowed
  simp only [captureInOrder, Bool.and_eq_true, decide_eq_true_eq] at allowed
  obtain ⟨-, ⟨-, -, capture⟩, -⟩ := allowed
  exact capture

/-- A move keeps the PPM alarm owed as it is armed. -/
theorem AlarmOwed.ppm_move (h : AlarmOwed s.params s.ppm.alarmArmed s.ppm.alarmAt e.ppmDue)
    (allowed : e.allows s.params m = true) (run : exec m.instr s = .next t) :
    AlarmOwed s.params t.ppm.alarmArmed t.ppm.alarmAt (e.nextPpmDue m s t) := by
  by_cases isEdge : ∃ r x, m.instr = .edge r x
  · obtain ⟨r, x, edge⟩ := isEdge
    have written : t.ppm = (ppmEdge s.params s.cfg x r s.ppm).1 := by
      rw [edge] at run
      cases run
      rfl
    rw [nextPpmDue_of_edge edge]
    by_cases qualifies : ppmQualifies s.cfg r = true
    · have rearmed := ppmEdge_rearmedAt (p := s.params) (t := x) (u := s.ppm) qualifies
      rw [← written] at rearmed
      rw [rearmed.armed, if_pos rfl, if_pos qualifies]
      exact .rearmed (capture_of_allows_edge allowed edge) _ rearmed.alarmAt
    · rw [ppmEdge_other qualifies] at written
      rw [if_neg qualifies]
      exact h.kept_or_off (.inr (by rw [written]; exact ⟨rfl, rfl⟩))
  · have notEdge : ∀ r x, m.instr ≠ .edge r x := fun r x edge => isEdge ⟨r, x, edge⟩
    rw [nextPpmDue_of_not_edge notEdge]
    exact h.kept_or_off ((exec_writes m.instr s t run).ppm.alarm_kept_or_off notEdge)

/-- A move keeps the SRXL alarm owed as it is armed. -/
theorem AlarmOwed.srxl_move (h : AlarmOwed s.params s.srxl.alarmArmed s.srxl.alarmAt e.srxlDue)
    (allowed : e.allows s.params m = true) (run : exec m.instr s = .next t) :
    AlarmOwed s.params t.srxl.alarmArmed t.srxl.alarmAt (e.nextSrxlDue m s t) := by
  by_cases isByte : ∃ d x, m.instr = .uartByte d x
  · obtain ⟨d, x, byte⟩ := isByte
    have capture := capture_of_allows_byte allowed byte
    rw [byte] at run
    obtain ⟨r, taken, rfl⟩ := execUartByte_eq_next run
    have rearmed := srxlByte_rearmedAt taken
    rw [nextSrxlDue_of_byte byte, State.takeSrxl_srxl, rearmed.armed, if_pos rfl]
    exact .rearmed capture _ rearmed.alarmAt
  · have notByte : ∀ d x, m.instr ≠ .uartByte d x := fun d x byte => isByte ⟨d, x, byte⟩
    rw [nextSrxlDue_of_not_byte notByte]
    exact h.kept_or_off ((exec_writes m.instr s t run).srxl.alarm_kept_or_off notByte)

end

/-! ### Runs -/

/-- What the environment owes are the armed alarms of the block. -/
structure Env.OwesArmed (e : Env) (s : State) : Prop where
  ppm  : AlarmOwed s.params s.ppm.alarmArmed s.ppm.alarmAt e.ppmDue
  srxl : AlarmOwed s.params s.srxl.alarmArmed s.srxl.alarmAt e.srxlDue

theorem Env.owesArmed_start (now : Nat) (stored : Option (List Byte)) (storeHealthy : Bool) (p : Params) :
    (Env.start now stored storeHealthy).OwesArmed (State.powerOn p) :=
  ⟨.unarmed 0, .unarmed 0⟩

/-- Power-on owes nothing, and every move keeps what is owed the armed alarms; an illegal word writes no unit. -/
theorem TimedRun.owesArmed {e e' : Env} {s t : State} (run : TimedRun e s e' t) (h : e.OwesArmed s) :
    e'.OwesArmed t ∧ t.params = s.params := by
  induction run with
  | done => exact ⟨h, rfl⟩
  | @move e _ s s' _ m allowed _ runs _ ih =>
    have params := (exec_writes m.instr s s' runs).params
    have moved : (e.after m s s').OwesArmed s' :=
      ⟨params ▸ h.ppm.ppm_move allowed runs, params ▸ h.srxl.srxl_move allowed runs⟩
    obtain ⟨owes, same⟩ := ih moved
    exact ⟨owes, same.trans params⟩
  | illegal _ _ _ _ _ ih => exact ih ⟨h.ppm, h.srxl⟩

/-- Settles O60, by induction over the moves of the run. -/
theorem owedAlarmsAreTheArmedOnes : Obligations.OwedAlarmsAreTheArmedOnes := by
  intro p now stored storeHealthy e t run
  obtain ⟨⟨ppm, srxl⟩, params⟩ := run.owesArmed (Env.owesArmed_start now stored storeHealthy p)
  have same : t.params = p := params
  rw [same] at ppm srxl
  exact ⟨ppm.armed_iff, ppm.compare_eq, srxl.armed_iff, srxl.compare_eq⟩

end Sys2Proof.Machine
end
